-- ==== Sys2Proof/Word.lean ====
section
/-! DEFINITION. The words of the hardware: bytes, CAN identifiers, ADC values, canonical frame words. -/

namespace Sys2Proof

/-- A byte: 8 bits, an unsigned integer 0 to 255 (R10). -/
abbrev Byte := BitVec 8

/-- A CAN standard identifier: 11 bits (R21, R90). -/
abbrev CanId := BitVec 11

/-- An ADC telemetry value, 0 to 4095 (R94): 12 bits. -/
abbrev AdcValue := BitVec 12

/-- The canonical frame word `W` of R90: 79 bits. -/
abbrev FrameWord := BitVec 79

end Sys2Proof
end

