-- ==== Sys2Proof/Syntax.lean ====
section
/-! DEFINITION. The values the operations work on, and the ONE inductive of instructions: one constructor for each row of
spec/opcode_table.json. -/

namespace Sys2Proof

/-- The eight payload bytes of a frame, `data[0]` first (R21, R63). -/
structure Payload where
  d0 : Byte
  d1 : Byte
  d2 : Byte
  d3 : Byte
  d4 : Byte
  d5 : Byte
  d6 : Byte
  d7 : Byte
  deriving DecidableEq, Repr, Inhabited

/-- The reserved bytes `data[1]` to `data[7]` of a command or acknowledge payload (R92, R93, R100). -/
structure Reserved where
  d1 : Byte
  d2 : Byte
  d3 : Byte
  d4 : Byte
  d5 : Byte
  d6 : Byte
  d7 : Byte
  deriving DecidableEq, Repr, Inhabited

/-- The value type `Frame` (R21): an 11-bit identifier, a declared length 0 to 8, exactly 8 payload bytes. -/
structure Frame where
  id : CanId
  dlc : Fin 9
  data : Payload
  deriving DecidableEq, Repr, Inhabited

/-- A typed command (R92, R130). -/
inductive Command where
  | start
  | stop
  deriving DecidableEq, Repr

/-- A typed acknowledge (R93, R130). -/
inductive Ack where
  | startOk
  | stopOk
  | error
  deriving DecidableEq, Repr

/-- What `DEC.CMD` answers when the identifier is a command's (R130, R134): one form more than `Command`. -/
inductive DecodedCommand where
  | start
  | stop
  | unrecognised (id : CanId) (tag : Byte)
  deriving DecidableEq, Repr

/-- The two nodes of the system, each with a queue of its own (R20). -/
inductive Node where
  | sampler
  | hub
  deriving DecidableEq, Repr

/-- The two buttons of the hub (`N_BUTTONS = 2`, R7, R212). -/
inductive Button where
  | one
  | two
  deriving DecidableEq, Repr

/-- The opaque error value of `read_analog_channel` (R12, R255): no rule looks inside it; the model numbers the values. -/
structure HwError where
  code : Nat
  deriving DecidableEq, Repr

/-- The five errors of R256. An error is the result of the operation that met it (R250). -/
inductive BlockError where
  | malformedFrame
  | queueFull
  | outOfRange (v : Nat)
  | timeout
  | hwFailure (hw : HwError)
  deriving DecidableEq, Repr

/-- An instruction: a wire message as its consumer meets it (R2 (a), R98, R103), or a block operation with its operands
(R2 (b), R109). The results of collaborator calls and the time are inputs of the step, not operands. -/
inductive Instr where
  -- wire messages: the declared length and the reserved bytes are what arrived, and no rule reads them
  | cmdStart (dlc : Fin 9) (rest : Reserved)
  | cmdStop (dlc : Fin 9) (rest : Reserved)
  | dataAdc (v : AdcValue) (dlc : Fin 9)
  | ackStartOk (dlc : Fin 9) (rest : Reserved)
  | ackStopOk (dlc : Fin 9) (rest : Reserved)
  | ackError (dlc : Fin 9) (rest : Reserved)
  /-- a frame on the identifier of `which` with a tag that is not that identifier's own -/
  | cmdUnrecognised (which : Command) (tag : Byte) (dlc : Fin 9) (rest : Reserved)
  -- the codec
  | encCmd (c : Command)
  | encAdc (v : Nat)
  | encAck (a : Ack)
  | decCmd (f : Frame)
  | decAdc (f : Frame)
  | decAck (f : Frame)
  -- the queue
  | enq (q : Node) (f : Frame)
  | deq (q : Node)
  | qstat (q : Node)
  -- the sampler
  | smpRx (f : Frame)
  | smpDrain
  | smpStart
  | smpStop
  | smpUnknown
  | smpTick
  -- the buttons
  | btnPoll (b : Button)
  | hubPress (b : Button)
  | hubRelease (b : Button)
  | hubEdge
  -- the hub bridge
  | hubRx (f : Frame)
  | hubDrain
  | hubData (v : AdcValue)
  | hubAck (a : Ack)
  | hubQuery
  | reset (n : Node)
  deriving DecidableEq, Repr

/-- What stands as the next thing to run, a move of the environment (log 1) or a single instruction on the bench (log 5): an
operation word (bits 4..0 the event code of R109, operands from bit 8 up) or a canonical frame word `W` (R90) that the consumer of
its kind takes. -/
inductive EventWord where
  | op (w : Nat)
  | wire (w : Nat)
  deriving DecidableEq, Repr

end Sys2Proof
end

