-- ==== Sys2Proof/Config.lean ====
section
/-! DEFINITION. The configuration record (R7), the reference configuration (R9), and the free values. -/

namespace Sys2Proof

/-- The configuration `cfg`, the whole parameter list of R7: compile-time constant, read by the operations and written by none
(R35, R78). -/
structure Config where
  queueCapacity : Nat
  debounceTicks : BitVec 32
  freshnessWindowMs : BitVec 32
  samplePeriodMs : BitVec 32
  adcMax : Nat
  idCmdStart : CanId
  idCmdStop : CanId
  idAdcData : CanId
  idAckStart : CanId
  idAckStop : CanId
  tagCmdStart : Byte
  tagCmdStop : Byte
  tagAckStartOk : Byte
  tagAckStopOk : Byte
  tagAckError : Byte
  digitBase : Byte
  nButtons : Nat
  pressedLevel1 : Bool
  pressedLevel2 : Bool
  ackOnStopInError : Option Ack
  textStartOk : List Byte
  textStopOk : List Byte
  textError : List Byte
  /-- `DATA_TEXT`: no console text for a data frame, or the number of a format for `Config.renderData` (log 13). -/
  dataText : Option Nat
  deriving DecidableEq, Repr

/-- `REFCFG` (R9), the spec's own choice of values for the OPEN parameters. DESIGN CHOICE (log 2), unsafe where a statement
leans on it: nothing but `State.reset` and `decodeTableWord` uses it. -/
def Config.reference : Config where
  queueCapacity := 8
  debounceTicks := 3
  freshnessWindowMs := 2000
  samplePeriodMs := 1000
  adcMax := 4095
  idCmdStart := 0x100
  idCmdStop := 0x101
  idAdcData := 0x200
  idAckStart := 0x300
  idAckStop := 0x301
  tagCmdStart := 0x01
  tagCmdStop := 0x02
  tagAckStartOk := 0x01
  tagAckStopOk := 0x02
  tagAckError := 0xFF
  digitBase := 0x30
  nButtons := 2
  pressedLevel1 := true
  pressedLevel2 := true
  ackOnStopInError := none
  textStartOk := [0x53, 0x54, 0x41, 0x52, 0x54, 0x20, 0x4F, 0x4B, 0x0A]
  textStopOk := [0x53, 0x54, 0x4F, 0x50, 0x20, 0x4F, 0x4B, 0x0A]
  textError := [0x45, 0x52, 0x52, 0x4F, 0x52, 0x0A]
  dataText := none

/-- `DATA_TEXT` as a family of uninterpreted formats (R7, R233; DESIGN CHOICE, log 13): safe, nothing is known of the bytes. -/
opaque Config.renderData (format : Nat) (v : AdcValue) : List Byte

/-- What a slot holds after the operation `RESET` (R26, R290: unspecified), for the draw `n`: a free value (log 9). -/
opaque Config.freeSlot (n : Nat) (slot : Fin 8) : Frame

/-- What `H.cache.value` holds after `RESET` (R31, R290: unspecified), for the draw `n`: a free value (log 10). -/
opaque Config.freeCacheValue (n : Nat) : AdcValue

/-- What `H.cache.lastReceivedTimestamp` holds after `RESET` (R31, R290: unspecified), for the draw `n`: a free value (log 10). -/
opaque Config.freeCacheStamp (n : Nat) : Nat

/-- What `HUB.QUERY` answers when `now` is below the stamp (R235: unspecified), for the draw `n`: a free value (log 11). -/
opaque Config.freeQuery (n now stamp : Nat) : Bool

end Sys2Proof
end

