-- ==== Sys2Proof/WellFormed.lean ====
section
/-! DEFINITION. When a configuration is well-formed (R8, and two fixed values of R7), each item under a name of its own, and when
an instruction is. -/

namespace Sys2Proof

/-- R8 item 2: the five identifiers are pairwise different. (Item 1, below 2^11, is the type `CanId`.) -/
abbrev Config.IdsDistinct (c : Config) : Prop :=
  [c.idCmdStart, c.idCmdStop, c.idAdcData, c.idAckStart, c.idAckStop].Nodup

/-- R8 item 3. -/
abbrev Config.AckTagsDistinct (c : Config) : Prop := c.tagAckStopOk ≠ c.tagAckError

/-- R8 item 4. -/
abbrev Config.CmdTagsDistinct (c : Config) : Prop := c.tagCmdStart ≠ c.tagCmdStop

/-- R8 item 5. -/
abbrev Config.DebouncePositive (c : Config) : Prop := 1 ≤ c.debounceTicks.toNat

/-- R8 item 6. -/
abbrev Config.CapacityIsEight (c : Config) : Prop := c.queueCapacity = 8

/-- R8 item 7. -/
abbrev Config.DigitBaseFits (c : Config) : Prop := c.digitBase.toNat ≤ 246

/-- R7, "value here" of `ADC_MAX`: the value the rules write out (R94, R95) and the type `AdcValue` holds (log 2). -/
abbrev Config.AdcMaxIs4095 (c : Config) : Prop := c.adcMax = 4095

/-- R7, "value here" of `N_BUTTONS`: the buttons R212 names and the type `Button` holds (log 2). -/
abbrev Config.TwoButtons (c : Config) : Prop := c.nButtons = 2

/-- A well-formed configuration (R8), at the two values of R7 that shape the types of operands and state. -/
abbrev Config.WellFormed (c : Config) : Prop :=
  c.IdsDistinct ∧ c.AckTagsDistinct ∧ c.CmdTagsDistinct ∧ c.DebouncePositive ∧ c.CapacityIsEight ∧ c.DigitBaseFits
    ∧ c.AdcMaxIs4095 ∧ c.TwoButtons

/-- A well-formed instruction: an unrecognised command carries a tag that is not its identifier's own (R103; the table's
constraint on `CMD.UNRECOGNISED`). Every other bound on an operand is in its type. -/
def Instr.wf (c : Config) : Instr → Bool
  | .cmdUnrecognised .start tag _ _ => tag != c.tagCmdStart
  | .cmdUnrecognised .stop tag _ _ => tag != c.tagCmdStop
  | .cmdStart _ _ => true
  | .cmdStop _ _ => true
  | .dataAdc _ _ => true
  | .ackStartOk _ _ => true
  | .ackStopOk _ _ => true
  | .ackError _ _ => true
  | .encCmd _ => true
  | .encAdc _ => true
  | .encAck _ => true
  | .decCmd _ => true
  | .decAdc _ => true
  | .decAck _ => true
  | .enq _ _ => true
  | .deq _ => true
  | .qstat _ => true
  | .smpRx _ => true
  | .smpDrain => true
  | .smpStart => true
  | .smpStop => true
  | .smpUnknown => true
  | .smpTick => true
  | .btnPoll _ => true
  | .hubPress _ => true
  | .hubRelease _ => true
  | .hubEdge => true
  | .hubRx _ => true
  | .hubDrain => true
  | .hubData _ => true
  | .hubAck _ => true
  | .hubQuery => true
  | .reset _ => true

end Sys2Proof
end

