-- ==== Sys2Proof/Decode.lean ====
section
/-! DEFINITION. The canonical frame word, the frame codec (R130 to R136), the decoder from event words to instructions and,
after it, the encoder. -/

namespace Sys2Proof

/-! ### Frames and their canonical words -/

/-- `data[0]` to `data[7]` in order (R63). -/
def Payload.bytes (p : Payload) : List Byte := [p.d0, p.d1, p.d2, p.d3, p.d4, p.d5, p.d6, p.d7]

/-- The reserved bytes of a command or acknowledge payload (R92, R93). -/
def Payload.reserved (p : Payload) : Reserved := ⟨p.d1, p.d2, p.d3, p.d4, p.d5, p.d6, p.d7⟩

/-- The payload of a command or acknowledge: byte 0 the tag, then the reserved bytes (R92, R93). -/
def Payload.tagged (tag : Byte) (r : Reserved) : Payload := ⟨tag, r.d1, r.d2, r.d3, r.d4, r.d5, r.d6, r.d7⟩

/-- Reserved bytes as an encoder writes them: 0x00 each (R100). -/
def Reserved.zero : Reserved := ⟨0, 0, 0, 0, 0, 0, 0⟩

/-- `W = id[10:0] ∥ dlc[3:0] ∥ data[0] ∥ ... ∥ data[7]` (R90). -/
def Frame.toWord (f : Frame) : FrameWord :=
  f.id ++ BitVec.ofNat 4 f.dlc.val ++ f.data.d0 ++ f.data.d1 ++ f.data.d2 ++ f.data.d3 ++ f.data.d4 ++ f.data.d5
    ++ f.data.d6 ++ f.data.d7

/-- The payload bits of a canonical word: `data[i]` is `W[63-8i : 56-8i]` (R90). -/
def Payload.ofWord (w : FrameWord) : Payload where
  d0 := w.extractLsb' 56 8
  d1 := w.extractLsb' 48 8
  d2 := w.extractLsb' 40 8
  d3 := w.extractLsb' 32 8
  d4 := w.extractLsb' 24 8
  d5 := w.extractLsb' 16 8
  d6 := w.extractLsb' 8 8
  d7 := w.extractLsb' 0 8

/-- The frame a canonical word spells (R90): `W[78:68]` the identifier, `W[67:64]` the declared length, which must be 0 to 8
to be a `Frame` at all (R21, R274). -/
def Frame.ofWord (w : FrameWord) : Option Frame :=
  if h : (w.extractLsb' 64 4).toNat < 9 then
    some ⟨w.extractLsb' 68 11, ⟨(w.extractLsb' 64 4).toNat, h⟩, Payload.ofWord w⟩
  else none

/-! ### The encoders -/

/-- The identifier of a command's frame (R91, R98). -/
def Config.cmdId (c : Config) : Command → CanId
  | .start => c.idCmdStart
  | .stop => c.idCmdStop

/-- The tag of a command (R92, R98). -/
def Config.cmdTag (c : Config) : Command → Byte
  | .start => c.tagCmdStart
  | .stop => c.tagCmdStop

/-- The identifier of an acknowledge's frame (R91, R98): Error reuses the Stop-ack identifier (R106). -/
def Config.ackId (c : Config) : Ack → CanId
  | .startOk => c.idAckStart
  | .stopOk => c.idAckStop
  | .error => c.idAckStop

/-- The tag of an acknowledge (R93, R98). -/
def Config.ackTag (c : Config) : Ack → Byte
  | .startOk => c.tagAckStartOk
  | .stopOk => c.tagAckStopOk
  | .error => c.tagAckError

/-- `ENC.CMD` (R131). -/
def encCmd (c : Config) (x : Command) : Frame := ⟨c.cmdId x, 8, Payload.tagged (c.cmdTag x) Reserved.zero⟩

/-- `ENC.ACK` (R133). -/
def encAck (c : Config) (a : Ack) : Frame := ⟨c.ackId a, 8, Payload.tagged (c.ackTag a) Reserved.zero⟩

/-- The digit byte of weight `10^k` in the numeral of `v` (R94, R95). -/
def Config.digitByte (c : Config) (v k : Nat) : Byte := c.digitBase + BitVec.ofNat 8 (v / 10 ^ k % 10)

/-- The payload of a data frame: eight digit bytes, most significant first (R94, R95). -/
def Config.adcPayload (c : Config) (v : Nat) : Payload where
  d0 := c.digitByte v 7
  d1 := c.digitByte v 6
  d2 := c.digitByte v 5
  d3 := c.digitByte v 4
  d4 := c.digitByte v 3
  d5 := c.digitByte v 2
  d6 := c.digitByte v 1
  d7 := c.digitByte v 0

/-- `ENC.ADC` (R132). -/
def encAdc (c : Config) (v : Nat) : Except BlockError Frame :=
  if c.adcMax < v then .error (.outOfRange v) else .ok ⟨c.idAdcData, 8, c.adcPayload v⟩

/-! ### The decoders -/

/-- `DEC.CMD` (R134): the identifier first, then the tag (R140); `dlc` and `data[1..7]` are not read (R100, R101). -/
def decCmd (c : Config) (f : Frame) : Except BlockError DecodedCommand :=
  if f.id ≠ c.idCmdStart ∧ f.id ≠ c.idCmdStop then .error .malformedFrame
  else if f.id = c.idCmdStart ∧ f.data.d0 = c.tagCmdStart then .ok .start
  else if f.id = c.idCmdStop ∧ f.data.d0 = c.tagCmdStop then .ok .stop
  else .ok (.unrecognised f.id f.data.d0)

/-- The digit a payload byte carries, if it is a digit byte (R96, R105). -/
def Config.digitOf (c : Config) (b : Byte) : Option Nat :=
  if b.toNat < c.digitBase.toNat ∨ c.digitBase.toNat + 9 < b.toNat then none else some (b.toNat - c.digitBase.toNat)

/-- The value a list of digit bytes spells after `acc`, exact (R96, R139); none if some byte is no digit byte. -/
def Config.assemble (c : Config) : List Byte → Nat → Option Nat
  | [], acc => some acc
  | b :: bs, acc =>
    match c.digitOf b with
    | none => none
    | some d => c.assemble bs (acc * 10 + d)

/-- `DEC.ADC` (R135). -/
def decAdc (c : Config) (f : Frame) : Except BlockError AdcValue :=
  if f.id ≠ c.idAdcData then .error .malformedFrame
  else
    match c.assemble f.data.bytes 0 with
    | none => .error .malformedFrame
    | some v => if c.adcMax < v then .error .malformedFrame else .ok (BitVec.ofNat 12 v)

/-- `DEC.ACK` (R136): exactly the three legal pairs (R104); `dlc` and `data[1..7]` are not read. -/
def decAck (c : Config) (f : Frame) : Except BlockError Ack :=
  if f.id = c.idAckStart then
    if f.data.d0 = c.tagAckStartOk then .ok .startOk else .error .malformedFrame
  else if f.id = c.idAckStop then
    if f.data.d0 = c.tagAckStopOk then .ok .stopOk
    else if f.data.d0 = c.tagAckError then .ok .error
    else .error .malformedFrame
  else .error .malformedFrame

/-! ### From event words to instructions -/

/-- Why an event word is no instruction. -/
inductive Reject where
  /-- event codes 0x19 to 0x1F (R109) -/
  | unassignedCode
  /-- a bit the encoding fixes to 0 is 1: bits 7..5 of an operation word, bit 79 and above of a frame word (R90) -/
  | reservedBits
  /-- the operand bits spell no operand of the operation (log 3) -/
  | badOperand
  /-- a declared length 9 to 15 is not a `Frame` (R21, R274) -/
  | dlcTooLarge
  /-- a frame that no decoder accepts: `MalformedFrame` for its consumer, which drops it (R102, R104, R105) -/
  | malformedFrame
  deriving DecidableEq, Repr

/-- A frame from the number that writes its canonical word. -/
def frameOfNat (n : Nat) : Except Reject Frame :=
  if n < 2 ^ 79 then
    match Frame.ofWord (BitVec.ofNat 79 n) with
    | some f => .ok f
    | none => .error .dlcTooLarge
  else .error .reservedBits

/-- The instruction a received frame is for its consumer (R110): the verdicts of the three decoders. -/
def Config.instrOfFrame (c : Config) (f : Frame) : Except Reject Instr :=
  match decCmd c f with
  | .ok .start => .ok (.cmdStart f.dlc f.data.reserved)
  | .ok .stop => .ok (.cmdStop f.dlc f.data.reserved)
  | .ok (.unrecognised id tag) =>
    .ok (.cmdUnrecognised (if id = c.idCmdStart then .start else .stop) tag f.dlc f.data.reserved)
  | .error _ =>
    match decAdc c f with
    | .ok v => .ok (.dataAdc v f.dlc)
    | .error _ =>
      match decAck c f with
      | .ok .startOk => .ok (.ackStartOk f.dlc f.data.reserved)
      | .ok .stopOk => .ok (.ackStopOk f.dlc f.data.reserved)
      | .ok .error => .ok (.ackError f.dlc f.data.reserved)
      | .error _ => .error .malformedFrame

/-- A wire message from its canonical word. -/
def decodeWire (c : Config) (n : Nat) : Except Reject Instr :=
  match frameOfNat n with
  | .ok f => c.instrOfFrame f
  | .error r => .error r

/-- Operand layouts above the event code (DESIGN CHOICE, log 3). -/
def commandOfNat : Nat → Except Reject Command
  | 0 => .ok .start
  | 1 => .ok .stop
  | _ => .error .badOperand

def ackOfNat : Nat → Except Reject Ack
  | 0 => .ok .startOk
  | 1 => .ok .stopOk
  | 2 => .ok .error
  | _ => .error .badOperand

def nodeOfNat : Nat → Except Reject Node
  | 0 => .ok .sampler
  | 1 => .ok .hub
  | _ => .error .badOperand

def buttonOfNat : Nat → Except Reject Button
  | 0 => .ok .one
  | 1 => .ok .two
  | _ => .error .badOperand

def valueOfNat (n : Nat) : Except Reject AdcValue :=
  if n < 4096 then .ok (BitVec.ofNat 12 n) else .error .badOperand

/-- An operation without operands: its operand bits are 0. -/
def noOperand (i : Instr) (n : Nat) : Except Reject Instr :=
  if n = 0 then .ok i else .error .badOperand

/-- The operands of `ENQ`: bit 0 the queue, then the frame word. -/
def enqOfNat (n : Nat) : Except Reject Instr :=
  match nodeOfNat (n % 2), frameOfNat (n / 2) with
  | .ok q, .ok f => .ok (.enq q f)
  | .error r, _ => .error r
  | .ok _, .error r => .error r

/-- A block operation from its event code (R109) and its operand bits. -/
def decodeCode (code operand : Nat) : Except Reject Instr :=
  match code with
  | 0x00 => (commandOfNat operand).map Instr.encCmd
  | 0x01 => .ok (.encAdc operand)
  | 0x02 => (ackOfNat operand).map Instr.encAck
  | 0x03 => (frameOfNat operand).map Instr.decCmd
  | 0x04 => (frameOfNat operand).map Instr.decAdc
  | 0x05 => (frameOfNat operand).map Instr.decAck
  | 0x06 => enqOfNat operand
  | 0x07 => (nodeOfNat operand).map Instr.deq
  | 0x08 => (nodeOfNat operand).map Instr.qstat
  | 0x09 => (frameOfNat operand).map Instr.smpRx
  | 0x0A => noOperand .smpDrain operand
  | 0x0B => noOperand .smpStart operand
  | 0x0C => noOperand .smpStop operand
  | 0x0D => noOperand .smpUnknown operand
  | 0x0E => noOperand .smpTick operand
  | 0x0F => (buttonOfNat operand).map Instr.btnPoll
  | 0x10 => (buttonOfNat operand).map Instr.hubPress
  | 0x11 => (buttonOfNat operand).map Instr.hubRelease
  | 0x12 => noOperand .hubEdge operand
  | 0x13 => (frameOfNat operand).map Instr.hubRx
  | 0x14 => noOperand .hubDrain operand
  | 0x15 => (valueOfNat operand).map Instr.hubData
  | 0x16 => (ackOfNat operand).map Instr.hubAck
  | 0x17 => noOperand .hubQuery operand
  | 0x18 => (nodeOfNat operand).map Instr.reset
  | _ => if code < 32 then .error .unassignedCode else .error .reservedBits

/-- A block operation from its operation word: bits 4..0 the code, bits 7..5 zero, operands from bit 8 up. -/
def decodeOp (w : Nat) : Except Reject Instr := decodeCode (w % 256) (w / 256)

/-- The decoder, total on every event word. -/
def decode (c : Config) : EventWord → Except Reject Instr
  | .op w => decodeOp w
  | .wire w => decodeWire c w

/-! ### The encoder -/

def commandCode : Command → Nat
  | .start => 0
  | .stop => 1

def ackCode : Ack → Nat
  | .startOk => 0
  | .stopOk => 1
  | .error => 2

def nodeCode : Node → Nat
  | .sampler => 0
  | .hub => 1

def buttonCode : Button → Nat
  | .one => 0
  | .two => 1

/-- The number that writes a frame's canonical word. -/
def frameCode (f : Frame) : Nat := f.toWord.toNat

/-- The frame of a wire message on identifier `id` with tag `tag`. -/
def wireFrame (id : CanId) (tag : Byte) (dlc : Fin 9) (r : Reserved) : EventWord :=
  .wire (frameCode ⟨id, dlc, Payload.tagged tag r⟩)

/-- An operation word: the event code of R109 below the operand bits. -/
def opWord (code operand : Nat) : EventWord := .op (code + 256 * operand)

/-- The event word of an instruction, from the tables of R98 and R109. -/
def encode (c : Config) : Instr → EventWord
  | .cmdStart dlc r => wireFrame c.idCmdStart c.tagCmdStart dlc r
  | .cmdStop dlc r => wireFrame c.idCmdStop c.tagCmdStop dlc r
  | .dataAdc v dlc => .wire (frameCode ⟨c.idAdcData, dlc, c.adcPayload v.toNat⟩)
  | .ackStartOk dlc r => wireFrame c.idAckStart c.tagAckStartOk dlc r
  | .ackStopOk dlc r => wireFrame c.idAckStop c.tagAckStopOk dlc r
  | .ackError dlc r => wireFrame c.idAckStop c.tagAckError dlc r
  | .cmdUnrecognised which tag dlc r => wireFrame (c.cmdId which) tag dlc r
  | .encCmd x => opWord 0x00 (commandCode x)
  | .encAdc v => opWord 0x01 v
  | .encAck a => opWord 0x02 (ackCode a)
  | .decCmd f => opWord 0x03 (frameCode f)
  | .decAdc f => opWord 0x04 (frameCode f)
  | .decAck f => opWord 0x05 (frameCode f)
  | .enq q f => opWord 0x06 (nodeCode q + 2 * frameCode f)
  | .deq q => opWord 0x07 (nodeCode q)
  | .qstat q => opWord 0x08 (nodeCode q)
  | .smpRx f => opWord 0x09 (frameCode f)
  | .smpDrain => opWord 0x0A 0
  | .smpStart => opWord 0x0B 0
  | .smpStop => opWord 0x0C 0
  | .smpUnknown => opWord 0x0D 0
  | .smpTick => opWord 0x0E 0
  | .btnPoll b => opWord 0x0F (buttonCode b)
  | .hubPress b => opWord 0x10 (buttonCode b)
  | .hubRelease b => opWord 0x11 (buttonCode b)
  | .hubEdge => opWord 0x12 0
  | .hubRx f => opWord 0x13 (frameCode f)
  | .hubDrain => opWord 0x14 0
  | .hubData v => opWord 0x15 v.toNat
  | .hubAck a => opWord 0x16 (ackCode a)
  | .hubQuery => opWord 0x17 0
  | .reset n => opWord 0x18 (nodeCode n)

/-! ### The host's question -/

/-- The event word of a row of spec/opcode_table.json whose `nbits` bits are `w`: a row of at most one byte is an event code
(its operand bits zero), a wider one a canonical frame word. -/
def tableEvent (nbits w : Nat) : EventWord := if nbits ≤ 8 then .op w else .wire w

/-- The instruction the decoder reads from a row of the opcode table, whose words stand under `REFCFG` (R9). -/
def decodeTableWord (nbits w : Nat) : Option Instr :=
  match decode Config.reference (tableEvent nbits w) with
  | .ok i => some i
  | .error _ => none

end Sys2Proof
end

