-- ==== Sys2Proof/Machine/State.lean ====
section
/-! DEFINITION. The state of the two nodes (R20 to R31), the configuration, the model's own fields, the reasons a step can
stop, and the state after reset (R40). -/

namespace Sys2Proof.Machine

open Sys2Proof

/-- `S.state` (R28); no numeric encoding exists (D31). -/
inductive SamplerMode where
  | idle
  | sampling
  | error
  deriving DecidableEq, Repr

/-- A receive queue (R22): eight slots of one frame each, the index the next `ENQ` writes, the index the next `DEQ` reads, and
the number of live entries. -/
structure Queue where
  slots : Vector Frame 8
  head : Fin 8
  tail : Fin 8
  count : Fin 9
  deriving DecidableEq, Repr

/-- The state `S` of the sampler node (R20). -/
structure Sampler where
  q : Queue
  mode : SamplerMode
  sampleCounter : BitVec 32
  deriving DecidableEq, Repr

/-- The record `H.btn[b]` of one button (R30). -/
structure ButtonState where
  currentPressed : Bool
  lastRawSample : Bool
  debounceCounter : BitVec 32
  deriving DecidableEq, Repr

/-- `H.cache` (R31); a time is a natural number of milliseconds (R39). -/
structure Cache where
  value : AdcValue
  validFlag : Bool
  lastReceivedTimestamp : Nat
  deriving DecidableEq, Repr

/-- The state `H` of the hub node (R20). -/
structure Hub where
  q : Queue
  btn1 : ButtonState
  btn2 : ButtonState
  cache : Cache
  deriving DecidableEq, Repr

/-- The result of `transmit` (R254, R269). -/
inductive TxResult where
  | ok
  | timeout
  deriving DecidableEq, Repr

/-- The result of `read_analog_channel` (R255, R269): any natural raw sample, or an error. -/
inductive AnalogResult where
  | ok (raw : Nat)
  | err (hw : HwError)
  deriving DecidableEq, Repr

/-- The inputs the environment draws for one step (R39, R275). A step makes at most one call of each kind (R193 (d)). -/
structure Inputs where
  tx : TxResult
  analog : AnalogResult
  level : Bool
  now : Nat
  deriving DecidableEq, Repr

/-- One item of a step's output list (R14). -/
inductive Output where
  | tx (f : Frame)
  | arm
  | disarm
  | text (bytes : List Byte)
  | press (b : Button)
  | release (b : Button)
  | readAnalog
  deriving DecidableEq, Repr

/-- The result of a step, under the names the operation rules give it. -/
inductive Result where
  /-- `Ok(Frame)` of an encoder -/
  | frame (f : Frame)
  /-- `Ok` of `DEC.CMD` -/
  | command (c : DecodedCommand)
  /-- `Ok` of `DEC.ADC` -/
  | value (v : AdcValue)
  /-- `Ok` of `DEC.ACK` -/
  | acknowledge (a : Ack)
  /-- `Err(e)`: the operation ended by `raise` (R11) -/
  | err (e : BlockError)
  /-- the bool of `ENQ`, `SMP.RX`, `HUB.RX`; false is `QueueFull` (R252) -/
  | enqueued (stored : Bool)
  /-- the `Option<Frame>` of `DEQ` -/
  | dequeued (f : Option Frame)
  /-- the triple of `QSTAT` -/
  | queueStatus (count : Nat) (empty full : Bool)
  | empty
  | discarded
  | started (r : TxResult)
  | alreadyActive
  | stopped (r : TxResult)
  | refusedStop (r : TxResult)
  | ignored
  | rejected (r : TxResult)
  | skipped (e : BlockError)
  | sampled (raw : Nat) (r : TxResult)
  | noEvent
  | pressed (b : Button) (r : TxResult)
  | released (b : Button)
  /-- `HUB.EDGE` returns no value -/
  | edgeDone
  | data (v : AdcValue)
  | acked (a : Ack)
  /-- the bool of `HUB.QUERY` -/
  | receiving (b : Bool)
  /-- `RESET` returns no value; the node is named for the record -/
  | resetDone (n : Node)
  deriving DecidableEq, Repr

/-- One thing to run, and that step's inputs (R273): a move of the environment, or what stands on the bench. -/
structure Event where
  word : EventWord
  inputs : Inputs
  deriving DecidableEq, Repr

/-- The machine. `cfg`, `smp` and `hub` are the spec's; the other six fields are the model's own (INVENTORY.md, State). -/
structure State where
  /-- the configuration (R7): no operation writes it -/
  cfg : Config
  /-- the record `S` -/
  smp : Sampler
  /-- the record `H` -/
  hub : Hub
  /-- the moves the environment makes next, in order (R273, log 1) -/
  agenda : List Event
  /-- one operation or wire message set before the machine by itself, outside every run of the nodes; the next step runs it and
  clears the field, and no step fills it (log 5) -/
  bench : Option Event
  /-- the inputs of the step being run (log 6) -/
  inputs : Inputs
  /-- the last step's output list (R14, log 7) -/
  outputs : List Output
  /-- the last step's result (R11, log 7) -/
  result : Option Result
  /-- the index of the free values, advanced by every fetched event (log 8) -/
  draws : Nat
  deriving DecidableEq, Repr

/-- Faults: none. "*Fault*: nothing in this hardware; no operation traps and every input has a defined result" (R274, R250).
With no constructor, that no step faults is a fact of the type. -/
inductive Fault where
  deriving DecidableEq, Repr

/-- Refusals: where the spec's rules do not apply. All are safe: the machine stops and nothing is claimed of what follows. -/
inductive Refusal where
  /-- raised by an arm of `exec` whose instruction has no meaning yet; none in this model; safe -/
  | notModelled (mnemonic : String)
  /-- raised by `step` when the configuration is not well-formed (R8, R274); safe (log 15) -/
  | illFormedConfiguration
  /-- raised by `step` when the event word is no operation and no frame, for the reason named (R109, R274); safe (log 16) -/
  | undecodable (r : Reject)
  /-- raised by `step` when the environment's move is no top-level operation (R109): a wire message that no queue delivered, or an
  operation that runs only inside another, `ENQ` and `DEQ` by a second producer or consumer among them (R163, R180, R273, R274,
  U10); safe (log 5) -/
  | notTopLevel (i : Instr)
  deriving DecidableEq, Repr

/-- A queue after reset (R23 to R25, R40) whose slots hold `slots`. -/
def Queue.ofSlots (slots : Vector Frame 8) : Queue := ⟨slots, 0, 0, 0⟩

/-- A button record after reset (R30, R40). -/
def ButtonState.atReset : ButtonState := ⟨false, false, 0⟩

/-- The sampler after reset (R40) with the slot contents given. -/
def Sampler.atReset (slots : Vector Frame 8) : Sampler := ⟨Queue.ofSlots slots, .idle, 0⟩

/-- The hub after reset (R40) with the contents the spec leaves unspecified given. -/
def Hub.atReset (slots : Vector Frame 8) (value : AdcValue) (stamp : Nat) : Hub :=
  ⟨Queue.ofSlots slots, .atReset, .atReset, ⟨value, false, stamp⟩⟩

/-- The inputs before any step (DESIGN CHOICE, log 6, unsafe). -/
def Inputs.atReset : Inputs := ⟨.ok, .ok 0, false, 0⟩

/-- What the spec leaves unspecified in the slots, named for the state after power-on (DESIGN CHOICE, log 9, unsafe). -/
def slotsAtReset : Vector Frame 8 := Vector.replicate 8 ⟨0, 0, ⟨0, 0, 0, 0, 0, 0, 0, 0⟩⟩

/-- Both nodes after reset under the configuration `c` (R40): nothing has run and the environment has chosen nothing. -/
def State.powerOn (c : Config) : State where
  cfg := c
  smp := Sampler.atReset slotsAtReset
  hub := Hub.atReset slotsAtReset 0 0
  agenda := []
  bench := none
  inputs := Inputs.atReset
  outputs := []
  result := none
  draws := 0

/-- The machine right after reset (R40), under the reference configuration (R9; DESIGN CHOICE, log 2, unsafe). -/
def State.reset : State := State.powerOn Config.reference

end Sys2Proof.Machine
end

