-- ==== Sys2Proof/Machine/Flags.lean ====
section
/-! DEFINITION. The status bits the spec computes: queue empty and full (R34, R162), the hub's "is receiving data" (R235). -/

namespace Sys2Proof.Machine

open Sys2Proof

/-- `empty(q)` is `q.count = 0` (R34). -/
def Queue.isEmpty (q : Queue) : Bool := q.count.val == 0

/-- `full(q)` is `q.count = QUEUE_CAPACITY`, 8 in every well-formed configuration (R34, R8). -/
def Queue.isFull (q : Queue) : Bool := q.count.val == 8

/-- `HUB.QUERY` (R235): valid, and stamped strictly less than the freshness window before `now`. For `now` below the stamp the
answer is unspecified (U4): the free value `Config.freeQuery` (log 11). -/
def Cache.receiving (k : Cache) (window now draw : Nat) : Bool :=
  if k.validFlag then
    if k.lastReceivedTimestamp ≤ now then decide (now - k.lastReceivedTimestamp < window)
    else Config.freeQuery draw now k.lastReceivedTimestamp
  else false

end Sys2Proof.Machine
end

