-- ==== Sys2Proof/Machine/Operands.lean ====
section
/-! DEFINITION. How an operation reaches what its operands and inputs name: a node's queue, a button's record, the polarity of
a button, the command of a button, the console text of an acknowledge. -/

namespace Sys2Proof.Machine

open Sys2Proof

/-- The queue an operand names: `S.q` or `H.q` (R22). -/
def State.queue (s : State) : Node → Queue
  | .sampler => s.smp.q
  | .hub => s.hub.q

def State.setQueue (s : State) (n : Node) (q : Queue) : State :=
  match n with
  | .sampler => { s with smp := { s.smp with q := q } }
  | .hub => { s with hub := { s.hub with q := q } }

/-- `H.btn[b]` (R30). -/
def Hub.btn (h : Hub) : Button → ButtonState
  | .one => h.btn1
  | .two => h.btn2

def Hub.setBtn (h : Hub) (b : Button) (x : ButtonState) : Hub :=
  match b with
  | .one => { h with btn1 := x }
  | .two => { h with btn2 := x }

/-- `PRESSED_LEVEL[b]` (R7, R216). -/
def pressedLevel (c : Config) : Button → Bool
  | .one => c.pressedLevel1
  | .two => c.pressedLevel2

/-- `raw` of R210: true exactly when the level read is the one that means pressed (R216). -/
def State.rawPressed (s : State) (b : Button) : Bool := s.inputs.level == pressedLevel s.cfg b

/-- Button 1 commands Start, button 2 Stop (R212). -/
def buttonCommand : Button → Command
  | .one => .start
  | .two => .stop

/-- The console text of an acknowledge (R234). -/
def ackText (c : Config) : Ack → List Byte
  | .startOk => c.textStartOk
  | .stopOk => c.textStopOk
  | .error => c.textError

end Sys2Proof.Machine
end

