-- ==== Sys2Proof/Machine/Ops.lean ====
section
/-! DEFINITION. The shared operations: the queue memory, outputs and results, how an operation ends in an error (this hardware's
whole exception mechanism, R250), the handlers that wire messages and block operations share, `RESET`, and the fetch of the
next event. -/

namespace Sys2Proof.Machine

open Sys2Proof

/-! ### The queue -/

/-- `MemRead(q, i)` (R60). -/
def Queue.memRead (q : Queue) (i : Fin 8) : Frame := q.slots[i]

/-- `MemWrite(q, i, f)` (R60). -/
def Queue.memWrite (q : Queue) (i : Fin 8) (f : Frame) : Queue := { q with slots := q.slots.set i f }

/-- `ENQ` (R160): none when the queue is full and the frame is dropped. The index wraps from 7 to 0 (R61). -/
def Queue.enq (q : Queue) (f : Frame) : Option Queue :=
  if q.isFull then none
  else some { q.memWrite q.head f with head := q.head + 1, count := q.count + 1 }

/-- `DEQ` (R161): none when the queue is empty. The slot is not cleared (R79). -/
def Queue.deq (q : Queue) : Option (Frame × Queue) :=
  if q.isEmpty then none
  else some (q.memRead q.tail, { q with tail := q.tail + 1, count := q.count - 1 })

/-! ### Outputs and results -/

/-- A step begins with no outputs and no result (R14). -/
def State.begin (s : State) : State := { s with outputs := [], result := none }

/-- `emit X` (R11): the item goes to the end of the step's list. -/
def State.emit (s : State) (o : Output) : State := { s with outputs := s.outputs ++ [o] }

/-- `return v` (R11). -/
def State.ret (s : State) (r : Result) : State := { s with result := some r }

/-- `raise E` (R11, R250): the operation ends with the error as its result; nothing is saved, no mode changes, control goes
nowhere. There is no handler and no return from one. -/
def State.raise (s : State) (e : BlockError) : State := s.ret (.err e)

/-- `call transmit(f)` (R269): recorded as `Tx(f)`; its result is the step's input `tx`. -/
def State.transmit (s : State) (f : Frame) : State := s.emit (.tx f)

/-! ### The sampler's handlers -/

def State.setMode (s : State) (m : SamplerMode) : State := { s with smp := { s.smp with mode := m } }

/-- `S.sample_counter <- (S.sample_counter + 1) mod 2^32` (R186, R190). -/
def State.countSample (s : State) : State :=
  { s with smp := { s.smp with sampleCounter := s.smp.sampleCounter + 1 } }

/-- A Start command at the sampler (R183): the state first, then `Arm`, then the acknowledge (D35). -/
def startCommand (s : State) : State :=
  match s.smp.mode with
  | .idle => (((s.setMode .sampling).emit .arm).transmit (encAck s.cfg .startOk)).ret (.started s.inputs.tx)
  | .sampling => s.ret .alreadyActive
  | .error => s.ret .alreadyActive

/-- A Stop command at the sampler (R184). -/
def stopCommand (s : State) : State :=
  match s.smp.mode with
  | .sampling => (((s.setMode .idle).emit .disarm).transmit (encAck s.cfg .stopOk)).ret (.stopped s.inputs.tx)
  | .idle => (s.transmit (encAck s.cfg .stopOk)).ret (.stopped s.inputs.tx)
  | .error =>
    match s.cfg.ackOnStopInError with
    | none => s.ret .ignored
    | some a => (s.transmit (encAck s.cfg a)).ret (.refusedStop s.inputs.tx)

/-- An unrecognised command at the sampler (R185): answered with Error in every state. -/
def unknownCommand (s : State) : State := (s.transmit (encAck s.cfg .error)).ret (.rejected s.inputs.tx)

/-- A frame its consumer cannot decode is dropped with no other effect (R102, R251). -/
def discardFrame (s : State) : State := s.ret .discarded

/-- What the sampler does with a frame it has dequeued (R182): `DEC.CMD`, then the command's handler. -/
def samplerConsume (f : Frame) (s : State) : State :=
  match decCmd s.cfg f with
  | .error _ => discardFrame s
  | .ok .start => startCommand s
  | .ok .stop => stopCommand s
  | .ok (.unrecognised _ _) => unknownCommand s

/-- One timer tick (R186): the errors are met in the order of the calls (R263). -/
def samplerTick (s : State) : State :=
  match s.smp.mode with
  | .idle => s.ret .ignored
  | .error => s.ret .ignored
  | .sampling =>
    match s.inputs.analog with
    | .err hw => (s.emit .readAnalog).ret (.skipped (.hwFailure hw))
    | .ok raw =>
      match encAdc s.cfg raw with
      | .error e => (s.emit .readAnalog).ret (.skipped e)
      | .ok f => (((s.emit .readAnalog).transmit f).countSample).ret (.sampled raw s.inputs.tx)

/-! ### Reception and draining, the same for both nodes -/

/-- `ENQ` on a node's queue, the result recorded (R160, R181, R231). -/
def enqueueAt (n : Node) (f : Frame) (s : State) : State :=
  match (s.queue n).enq f with
  | none => s.ret (.enqueued false)
  | some q => (s.setQueue n q).ret (.enqueued true)

/-- One pass of a drain (R182, R232): `DEQ`, then the node's consumer on the frame taken. -/
def drainWith (n : Node) (consume : Frame → State → State) (s : State) : State :=
  match (s.queue n).deq with
  | none => s.ret .empty
  | some (f, q) => consume f (s.setQueue n q)

/-! ### The buttons -/

/-- The events of the debounce filter (R211). -/
inductive ButtonEvent where
  | press
  | release
  deriving DecidableEq, Repr

/-- One evaluation of the filter (R210) with window `n` (`DEBOUNCE_TICKS`) on the raw value `raw`: the new record and the event
it confirms, if any. -/
def ButtonState.poll (n : BitVec 32) (raw : Bool) (x : ButtonState) : ButtonState × Option ButtonEvent :=
  if raw ≠ x.lastRawSample then ({ x with debounceCounter := n, lastRawSample := raw }, none)
  else if x.debounceCounter ≠ 0 then
    if x.debounceCounter - 1 = 0 then
      if raw = true ∧ x.currentPressed = false then
        ({ x with debounceCounter := x.debounceCounter - 1, currentPressed := true }, some .press)
      else if raw = false ∧ x.currentPressed = true then
        ({ x with debounceCounter := x.debounceCounter - 1, currentPressed := false }, some .release)
      else ({ x with debounceCounter := x.debounceCounter - 1 }, none)
    else ({ x with debounceCounter := x.debounceCounter - 1 }, none)
  else (x, none)

/-- A confirmed press becomes a command frame (R212). -/
def pressButton (b : Button) (s : State) : State :=
  (s.transmit (encCmd s.cfg (buttonCommand b))).ret (.pressed b s.inputs.tx)

/-- A confirmed release does nothing (R213). -/
def releaseButton (b : Button) (s : State) : State := s.ret (.released b)

/-- `BTN.POLL` (R210): the filter, then the event in the outputs and its consequence in the same step (R211). -/
def pollButton (b : Button) (s : State) : State :=
  let r := (s.hub.btn b).poll s.cfg.debounceTicks (s.rawPressed b)
  let s1 := { s with hub := s.hub.setBtn b r.1 }
  match r.2 with
  | none => s1.ret .noEvent
  | some .press => pressButton b (s1.emit (.press b))
  | some .release => releaseButton b (s1.emit (.release b))

/-! ### The hub bridge -/

/-- A received ADC value at the hub (R233): all three fields of the cache, and a text if `DATA_TEXT` has a format. -/
def recordData (v : AdcValue) (s : State) : State :=
  let s1 := { s with hub := { s.hub with cache := ⟨v, true, s.inputs.now⟩ } }
  match s.cfg.dataText with
  | none => s1.ret (.data v)
  | some format => (s1.emit (.text (Config.renderData format v))).ret (.data v)

/-- `H.cache.validFlag <- false` (R234). -/
def State.invalidate (s : State) : State :=
  { s with hub := { s.hub with cache := { s.hub.cache with validFlag := false } } }

/-- A received acknowledge at the hub (R234): one text; `StopOk` alone invalidates the cache. -/
def reportAck (a : Ack) (s : State) : State :=
  let s1 := s.emit (.text (ackText s.cfg a))
  match a with
  | .startOk => s1.ret (.acked .startOk)
  | .stopOk => s1.invalidate.ret (.acked .stopOk)
  | .error => s1.ret (.acked .error)

/-- What the hub does with a frame it has dequeued (R232): dispatch on the identifier, decode, handle. -/
def hubConsume (f : Frame) (s : State) : State :=
  if f.id = s.cfg.idAdcData then
    match decAdc s.cfg f with
    | .error _ => discardFrame s
    | .ok v => recordData v s
  else if f.id = s.cfg.idAckStart ∨ f.id = s.cfg.idAckStop then
    match decAck s.cfg f with
    | .error _ => discardFrame s
    | .ok a => reportAck a s
  else discardFrame s

/-- `HUB.QUERY` (R235): computed, not stored. -/
def queryReceiving (s : State) : State :=
  s.ret (.receiving (s.hub.cache.receiving s.cfg.freshnessWindowMs.toNat s.inputs.now s.draws))

/-! ### Reset -/

/-- `RESET` of one node (R290): what R40 gives, and free values where the spec says unspecified (log 9, 10). -/
def resetNode (n : Node) (s : State) : State :=
  match n with
  | .sampler => { s with smp := Sampler.atReset (Vector.ofFn (Config.freeSlot s.draws)) }
  | .hub =>
    { s with
      hub := Hub.atReset (Vector.ofFn (Config.freeSlot s.draws)) (Config.freeCacheValue s.draws)
        (Config.freeCacheStamp s.draws) }

/-! ### The next event -/

/-- R109: the environment may choose a `top` operation as a node's next step; a `sub` operation runs inside another. -/
inductive Level where
  | top
  | sub
  deriving DecidableEq, Repr

/-- The level of R109's table. A wire message is handled inside a drain (R180, R232). -/
def level : Instr → Level
  | .smpRx _ => .top
  | .smpDrain => .top
  | .smpTick => .top
  | .btnPoll _ => .top
  | .hubEdge => .top
  | .hubRx _ => .top
  | .hubDrain => .top
  | .hubQuery => .top
  | .reset _ => .top
  | .cmdStart _ _ => .sub
  | .cmdStop _ _ => .sub
  | .dataAdc _ _ => .sub
  | .ackStartOk _ _ => .sub
  | .ackStopOk _ _ => .sub
  | .ackError _ _ => .sub
  | .cmdUnrecognised _ _ _ _ => .sub
  | .encCmd _ => .sub
  | .encAdc _ => .sub
  | .encAck _ => .sub
  | .decCmd _ => .sub
  | .decAdc _ => .sub
  | .decAck _ => .sub
  | .enq _ _ => .sub
  | .deq _ => .sub
  | .qstat _ => .sub
  | .smpStart => .sub
  | .smpStop => .sub
  | .smpUnknown => .sub
  | .hubPress _ => .sub
  | .hubRelease _ => .sub
  | .hubData _ => .sub
  | .hubAck _ => .sub

/-- What stands where the machine takes its next step from. -/
inductive Fetched where
  /-- the configuration is not well-formed: the rules do not apply (R8, R274) -/
  | illFormed
  /-- the environment has chosen nothing: the node waits for events (R292) -/
  | waiting
  /-- the event word is no operation and no frame -/
  | rejected (r : Reject)
  /-- an instruction that is no move of the environment (R273) -/
  | noMove (i : Instr)
  /-- a frame its consumer drops (R102), with the state the step starts from -/
  | dropped (s : State)
  /-- an instruction, with the state it runs on -/
  | instr (i : Instr) (s : State)

/-- The state an event's step starts from: `rest` is what the environment does after it, the bench is clear, the event's inputs
stand at the ports, and the free values of this step are new ones. -/
def State.load (s : State) (e : Event) (rest : List Event) : State :=
  { s with agenda := rest, bench := none, inputs := e.inputs, draws := s.draws + 1 }

/-- The environment's next move (R273): a top-level operation, no other. -/
def State.fetchMove (s : State) (e : Event) (rest : List Event) : Fetched :=
  match decode s.cfg e.word with
  | .ok i =>
    match level i with
    | .top => .instr i (s.load e rest)
    | .sub => .noMove i
  | .error r => .rejected r

/-- The operation or wire message on the bench, whatever its level (log 5). A frame no decoder accepts is dropped (log 22). -/
def State.fetchBench (s : State) (e : Event) : Fetched :=
  match decode s.cfg e.word with
  | .ok i => .instr i (s.load e s.agenda)
  | .error .malformedFrame => .dropped (s.load e s.agenda)
  | .error .unassignedCode => .rejected .unassignedCode
  | .error .reservedBits => .rejected .reservedBits
  | .error .badOperand => .rejected .badOperand
  | .error .dlcTooLarge => .rejected .dlcTooLarge

/-- What the next step runs: the bench if something stands there, else the environment's next move. -/
def State.fetch (s : State) : Fetched :=
  if s.cfg.WellFormed then
    match s.bench with
    | some e => s.fetchBench e
    | none =>
      match s.agenda with
      | [] => .waiting
      | e :: rest => s.fetchMove e rest
  else .illFormed

/-- An event placed on the bench, where the next fetch takes it, with the inputs that stand at the ports. -/
def State.placeEvent (s : State) (w : EventWord) : State := { s with bench := some ⟨w, s.inputs⟩ }

end Sys2Proof.Machine
end

