-- ==== Sys2Proof/Machine/Codec.lean ====
section
/-! DEFINITION. The meanings of the codec operations (R130 to R136): the result is recorded, no other state is touched. -/

namespace Sys2Proof.Machine

open Sys2Proof

/-- `ENC.CMD(c)` (R131). -/
def execEncCmd (c : Command) (s : State) : Host.Outcome State Fault Refusal :=
  .next (s.begin.ret (.frame (Sys2Proof.encCmd s.cfg c)))

/-- `ENC.ADC(v)` (R132): a frame, or `OutOfRange` exactly above 4095. -/
def execEncAdc (v : Nat) (s : State) : Host.Outcome State Fault Refusal :=
  match Sys2Proof.encAdc s.cfg v with
  | .ok f => .next (s.begin.ret (.frame f))
  | .error e => .next (s.begin.raise e)

/-- `ENC.ACK(a)` (R133). -/
def execEncAck (a : Ack) (s : State) : Host.Outcome State Fault Refusal :=
  .next (s.begin.ret (.frame (Sys2Proof.encAck s.cfg a)))

/-- `DEC.CMD(f)` (R134). -/
def execDecCmd (f : Frame) (s : State) : Host.Outcome State Fault Refusal :=
  match Sys2Proof.decCmd s.cfg f with
  | .ok c => .next (s.begin.ret (.command c))
  | .error e => .next (s.begin.raise e)

/-- `DEC.ADC(f)` (R135). -/
def execDecAdc (f : Frame) (s : State) : Host.Outcome State Fault Refusal :=
  match Sys2Proof.decAdc s.cfg f with
  | .ok v => .next (s.begin.ret (.value v))
  | .error e => .next (s.begin.raise e)

/-- `DEC.ACK(f)` (R136). -/
def execDecAck (f : Frame) (s : State) : Host.Outcome State Fault Refusal :=
  match Sys2Proof.decAck s.cfg f with
  | .ok a => .next (s.begin.ret (.acknowledge a))
  | .error e => .next (s.begin.raise e)

end Sys2Proof.Machine
end

