-- ==== Sys2Proof/Machine/Debounce.lean ====
section
/-! DEFINITION. The meanings of the button operations (R210 to R215). -/

namespace Sys2Proof.Machine

open Sys2Proof

/-- `BTN.POLL(b)` (R210). -/
def execBtnPoll (b : Button) (s : State) : Host.Outcome State Fault Refusal :=
  .next (pollButton b s.begin)

/-- `HUB.PRESS(b)` (R212). -/
def execHubPress (b : Button) (s : State) : Host.Outcome State Fault Refusal :=
  .next (pressButton b s.begin)

/-- `HUB.RELEASE(b)` (R213). -/
def execHubRelease (b : Button) (s : State) : Host.Outcome State Fault Refusal :=
  .next (releaseButton b s.begin)

/-- `HUB.EDGE` (R215): the edge interrupt has no effect. -/
def execHubEdge (s : State) : Host.Outcome State Fault Refusal :=
  .next (s.begin.ret .edgeDone)

end Sys2Proof.Machine
end

