-- ==== Sys2Proof/Machine/HubBridge.lean ====
section
/-! DEFINITION. The meanings of the hub bridge operations (R231 to R235). -/

namespace Sys2Proof.Machine

open Sys2Proof

/-- `HUB.RX(f)` (R231). -/
def execHubRx (f : Frame) (s : State) : Host.Outcome State Fault Refusal :=
  .next (enqueueAt .hub f s.begin)

/-- `HUB.DRAIN(now)` (R232): `now` is the step's input. -/
def execHubDrain (s : State) : Host.Outcome State Fault Refusal :=
  .next (drainWith .hub hubConsume s.begin)

/-- `HUB.DATA(v, now)` (R233). -/
def execHubData (v : AdcValue) (s : State) : Host.Outcome State Fault Refusal :=
  .next (recordData v s.begin)

/-- `HUB.ACK(a)` (R234). -/
def execHubAck (a : Ack) (s : State) : Host.Outcome State Fault Refusal :=
  .next (reportAck a s.begin)

/-- `HUB.QUERY(now)` (R235). -/
def execHubQuery (s : State) : Host.Outcome State Fault Refusal :=
  .next (queryReceiving s.begin)

end Sys2Proof.Machine
end

