-- ==== Sys2Proof/Machine/ReceiveQueue.lean ====
section
/-! DEFINITION. The meanings of the queue operations (R160 to R162), the same for `S.q` and `H.q`. -/

namespace Sys2Proof.Machine

open Sys2Proof

/-- `ENQ(q, f)` (R160). -/
def execEnq (q : Node) (f : Frame) (s : State) : Host.Outcome State Fault Refusal :=
  .next (enqueueAt q f s.begin)

/-- `DEQ(q)` (R161). -/
def execDeq (q : Node) (s : State) : Host.Outcome State Fault Refusal :=
  match (s.queue q).deq with
  | none => .next (s.begin.ret (.dequeued none))
  | some (f, r) => .next ((s.begin.setQueue q r).ret (.dequeued (some f)))

/-- `QSTAT(q)` (R162). -/
def execQstat (q : Node) (s : State) : Host.Outcome State Fault Refusal :=
  .next (s.begin.ret (.queueStatus (s.queue q).count.val (s.queue q).isEmpty (s.queue q).isFull))

end Sys2Proof.Machine
end

