-- ==== Sys2Proof/Machine/Reset.lean ====
section
/-! DEFINITION. The meaning of `RESET` (R290). -/

namespace Sys2Proof.Machine

open Sys2Proof

/-- `RESET(node)` (R290): no output, the configuration untouched. -/
def execReset (n : Node) (s : State) : Host.Outcome State Fault Refusal :=
  .next ((resetNode n s.begin).ret (.resetDone n))

end Sys2Proof.Machine
end

