-- ==== Sys2Proof/Machine/SamplerControl.lean ====
section
/-! DEFINITION. The meanings of the sampler operations (R181 to R186). -/

namespace Sys2Proof.Machine

open Sys2Proof

/-- `SMP.RX(f)` (R181). -/
def execSmpRx (f : Frame) (s : State) : Host.Outcome State Fault Refusal :=
  .next (enqueueAt .sampler f s.begin)

/-- `SMP.DRAIN` (R182). -/
def execSmpDrain (s : State) : Host.Outcome State Fault Refusal :=
  .next (drainWith .sampler samplerConsume s.begin)

/-- `SMP.START` (R183). -/
def execSmpStart (s : State) : Host.Outcome State Fault Refusal :=
  .next (startCommand s.begin)

/-- `SMP.STOP` (R184). -/
def execSmpStop (s : State) : Host.Outcome State Fault Refusal :=
  .next (stopCommand s.begin)

/-- `SMP.UNKNOWN` (R185). -/
def execSmpUnknown (s : State) : Host.Outcome State Fault Refusal :=
  .next (unknownCommand s.begin)

/-- `SMP.TICK` (R186). -/
def execSmpTick (s : State) : Host.Outcome State Fault Refusal :=
  .next (samplerTick s.begin)

end Sys2Proof.Machine
end

