-- ==== Sys2Proof/Machine/Wire.lean ====
section
/-! DEFINITION. The meanings of the wire messages: what the consumer of a message does with its frame (R98, column "semantics"; log 4). -/

namespace Sys2Proof.Machine

open Sys2Proof

/-- `CMD.START` at the sampler (R98, R183): neither the declared length nor the reserved bytes are read (R100, R101). -/
def execCmdStart (_dlc : Fin 9) (_rest : Reserved) (s : State) : Host.Outcome State Fault Refusal :=
  .next (startCommand s.begin)

/-- `CMD.STOP` at the sampler (R98, R184). -/
def execCmdStop (_dlc : Fin 9) (_rest : Reserved) (s : State) : Host.Outcome State Fault Refusal :=
  .next (stopCommand s.begin)

/-- `DATA.ADC` at the hub (R98, R233). -/
def execDataAdc (v : AdcValue) (_dlc : Fin 9) (s : State) : Host.Outcome State Fault Refusal :=
  .next (recordData v s.begin)

/-- `ACK.START_OK` at the hub (R98, R234). -/
def execAckStartOk (_dlc : Fin 9) (_rest : Reserved) (s : State) : Host.Outcome State Fault Refusal :=
  .next (reportAck .startOk s.begin)

/-- `ACK.STOP_OK` at the hub (R98, R234). -/
def execAckStopOk (_dlc : Fin 9) (_rest : Reserved) (s : State) : Host.Outcome State Fault Refusal :=
  .next (reportAck .stopOk s.begin)

/-- `ACK.ERROR` at the hub (R98, R106, R234). -/
def execAckError (_dlc : Fin 9) (_rest : Reserved) (s : State) : Host.Outcome State Fault Refusal :=
  .next (reportAck .error s.begin)

/-- An unrecognised command at the sampler (R103, R185). -/
def execCmdUnrecognised (_which : Command) (_tag : Byte) (_dlc : Fin 9) (_rest : Reserved) (s : State) : Host.Outcome State Fault Refusal :=
  .next (unknownCommand s.begin)

end Sys2Proof.Machine
end

