-- ==== Sys2Proof/Machine/Dispatch.lean ====
section
/-! DEFINITION. The one dispatch from instructions to meanings. -/

namespace Sys2Proof.Machine

open Sys2Proof

def exec (i : Instr) (s : State) : Host.Outcome State Fault Refusal :=
  match i with
  | .cmdStart dlc rest => Sys2Proof.Machine.execCmdStart dlc rest s
  | .cmdStop dlc rest => Sys2Proof.Machine.execCmdStop dlc rest s
  | .dataAdc v dlc => Sys2Proof.Machine.execDataAdc v dlc s
  | .ackStartOk dlc rest => Sys2Proof.Machine.execAckStartOk dlc rest s
  | .ackStopOk dlc rest => Sys2Proof.Machine.execAckStopOk dlc rest s
  | .ackError dlc rest => Sys2Proof.Machine.execAckError dlc rest s
  | .cmdUnrecognised which tag dlc rest => Sys2Proof.Machine.execCmdUnrecognised which tag dlc rest s
  | .encCmd c => Sys2Proof.Machine.execEncCmd c s
  | .encAdc v => Sys2Proof.Machine.execEncAdc v s
  | .encAck a => Sys2Proof.Machine.execEncAck a s
  | .decCmd f => Sys2Proof.Machine.execDecCmd f s
  | .decAdc f => Sys2Proof.Machine.execDecAdc f s
  | .decAck f => Sys2Proof.Machine.execDecAck f s
  | .enq q f => Sys2Proof.Machine.execEnq q f s
  | .deq q => Sys2Proof.Machine.execDeq q s
  | .qstat q => Sys2Proof.Machine.execQstat q s
  | .smpRx f => Sys2Proof.Machine.execSmpRx f s
  | .smpDrain => Sys2Proof.Machine.execSmpDrain s
  | .smpStart => Sys2Proof.Machine.execSmpStart s
  | .smpStop => Sys2Proof.Machine.execSmpStop s
  | .smpUnknown => Sys2Proof.Machine.execSmpUnknown s
  | .smpTick => Sys2Proof.Machine.execSmpTick s
  | .btnPoll b => Sys2Proof.Machine.execBtnPoll b s
  | .hubPress b => Sys2Proof.Machine.execHubPress b s
  | .hubRelease b => Sys2Proof.Machine.execHubRelease b s
  | .hubEdge => Sys2Proof.Machine.execHubEdge s
  | .hubRx f => Sys2Proof.Machine.execHubRx f s
  | .hubDrain => Sys2Proof.Machine.execHubDrain s
  | .hubData v => Sys2Proof.Machine.execHubData v s
  | .hubAck a => Sys2Proof.Machine.execHubAck a s
  | .hubQuery => Sys2Proof.Machine.execHubQuery s
  | .reset n => Sys2Proof.Machine.execReset n s

end Sys2Proof.Machine
end

