-- ==== Sys2Proof/Machine/Step.lean ====
section
/-! DEFINITION. One step of the machine, and where an instruction is placed so that the next step runs it. -/

namespace Sys2Proof.Machine

open Sys2Proof

/-- One step (R13): the move the environment chose runs as one atomic operation; with no move the machine waits (R292); an
ill-formed configuration, a word that is no operation, and a move that is no top-level operation are refused (R273, R274). What
stands on the bench runs before any move (log 5). -/
def step (s : State) : Host.Outcome State Fault Refusal :=
  match s.fetch with
  | .illFormed => .refused .illFormedConfiguration
  | .waiting => .next s.begin
  | .rejected r => .refused (.undecodable r)
  | .noMove i => .refused (.notTopLevel i)
  | .dropped t => .next (discardFrame t.begin)
  | .instr i t => exec i t

/-- `s` with the instruction of a row of spec/opcode_table.json on the bench, with the inputs that stand at the ports. -/
def State.withFetchWord (s : State) (nbits w : Nat) : State := s.placeEvent (tableEvent nbits w)

end Sys2Proof.Machine
end

