-- ==== Sys2Proof/Safety.lean ====
section
/-! DEFINITION. The terms claims are made in: the context of an operation (R267), the node it belongs to, the queue invariant and
its live entries (R27), the invariant of the machine, runs, the premise on time (R39), and what a run's history says. -/

namespace Sys2Proof.Machine

open Sys2Proof

/-! ### Labels of the operations -/

/-- The two execution contexts of a node (R267). -/
inductive Context where
  | interrupt
  | mainLoop
  deriving DecidableEq, Repr

/-- Which node's state an instruction may touch: `none` for the codec, which has no state (R130). -/
def owner : Instr → Option Node
  | .cmdStart _ _ => some .sampler
  | .cmdStop _ _ => some .sampler
  | .dataAdc _ _ => some .hub
  | .ackStartOk _ _ => some .hub
  | .ackStopOk _ _ => some .hub
  | .ackError _ _ => some .hub
  | .cmdUnrecognised _ _ _ _ => some .sampler
  | .encCmd _ => none
  | .encAdc _ => none
  | .encAck _ => none
  | .decCmd _ => none
  | .decAdc _ => none
  | .decAck _ => none
  | .enq q _ => some q
  | .deq q => some q
  | .qstat q => some q
  | .smpRx _ => some .sampler
  | .smpDrain => some .sampler
  | .smpStart => some .sampler
  | .smpStop => some .sampler
  | .smpUnknown => some .sampler
  | .smpTick => some .sampler
  | .btnPoll _ => some .hub
  | .hubPress _ => some .hub
  | .hubRelease _ => some .hub
  | .hubEdge => some .hub
  | .hubRx _ => some .hub
  | .hubDrain => some .hub
  | .hubData _ => some .hub
  | .hubAck _ => some .hub
  | .hubQuery => some .hub
  | .reset n => some n

/-- The context of a top-level operation (R267); `RESET` and the `sub` operations have none of their own. -/
def context : Instr → Option Context
  | .smpRx _ => some .interrupt
  | .smpTick => some .interrupt
  | .hubRx _ => some .interrupt
  | .hubEdge => some .interrupt
  | .smpDrain => some .mainLoop
  | .btnPoll _ => some .mainLoop
  | .hubDrain => some .mainLoop
  | .hubQuery => some .mainLoop
  | .reset _ => none
  | .cmdStart _ _ => none
  | .cmdStop _ _ => none
  | .dataAdc _ _ => none
  | .ackStartOk _ _ => none
  | .ackStopOk _ _ => none
  | .ackError _ _ => none
  | .cmdUnrecognised _ _ _ _ => none
  | .encCmd _ => none
  | .encAdc _ => none
  | .encAck _ => none
  | .decCmd _ => none
  | .decAdc _ => none
  | .decAck _ => none
  | .enq _ _ => none
  | .deq _ => none
  | .qstat _ => none
  | .smpStart => none
  | .smpStop => none
  | .smpUnknown => none
  | .hubPress _ => none
  | .hubRelease _ => none
  | .hubData _ => none
  | .hubAck _ => none

/-- The producer of a node's queue (R163): its reception of the frame `f`. -/
def reception (f : Frame) : Node → Instr
  | .sampler => .smpRx f
  | .hub => .hubRx f

/-- The consumer of a node's queue (R163): one pass of its drain. -/
def drain : Node → Instr
  | .sampler => .smpDrain
  | .hub => .hubDrain

/-! ### Invariants -/

/-- The ring of R27: the head is the tail advanced by the count. (The ranges of R27 are the types of the fields.) -/
abbrev Queue.Ring (q : Queue) : Prop := q.head.val = (q.tail.val + q.count.val) % 8

/-- The slot `k` places after the tail (R27, R61). -/
def Queue.at (q : Queue) (k : Nat) : Frame := q.memRead (Fin.ofNat 8 (q.tail.val + k))

/-- The live entries, oldest first (R27). -/
def Queue.contents (q : Queue) : List Frame := (List.range q.count.val).map q.at

/-- A button record between polls: the counter within the window (R217), and a button at rest has its last raw value
confirmed. -/
abbrev ButtonState.Settled (window : BitVec 32) (x : ButtonState) : Prop :=
  x.debounceCounter.toNat ≤ window.toNat ∧ (x.debounceCounter = 0 → x.currentPressed = x.lastRawSample)

/-- The invariant of the machine: a well-formed configuration (R8), both rings (R27), the sampler never in Error (R42, R193 (f), by
decision D16, log 17), both buttons settled (R217). -/
abbrev State.Inv (s : State) : Prop :=
  s.cfg.WellFormed ∧ s.smp.q.Ring ∧ s.hub.q.Ring ∧ s.smp.mode ≠ .error
    ∧ s.hub.btn1.Settled s.cfg.debounceTicks ∧ s.hub.btn2.Settled s.cfg.debounceTicks

/-! ### Runs -/

/-- The steps of a run of at most `k` steps from `s`, each with the state before and the state after. -/
def trace : Nat → State → List (State × State)
  | 0, _ => []
  | k + 1, s =>
    match step s with
    | .next t => (s, t) :: trace k t
    | .fault _ => []
    | .refused _ => []

/-- The state a run of at most `k` steps from `s` ends in. -/
def final : Nat → State → State
  | 0, s => s
  | k + 1, s =>
    match step s with
    | .next t => final k t
    | .fault _ => s
    | .refused _ => s

/-- The instruction the next step runs, if it runs one. -/
def State.current (s : State) : Option Instr :=
  match s.fetch with
  | .instr i _ => some i
  | .illFormed => none
  | .waiting => none
  | .rejected _ => none
  | .noMove _ => none
  | .dropped _ => none

/-- The premise that the machine is in a run of the nodes: nothing stands on the bench, so the environment's moves are all that
runs (R163, R180, R273; log 5). -/
abbrev State.InRun (s : State) : Prop := s.bench = none

/-- The operations of the hub that take the time (R39, D25). -/
abbrev TakesTime (i : Instr) : Prop := i = .hubDrain ∨ i = .hubQuery

/-- The times the environment gives the hub in the moves to come, in order. -/
def State.times (s : State) : List Nat :=
  s.agenda.filterMap fun e =>
    match decode s.cfg e.word with
    | .ok i => if TakesTime i then some e.inputs.now else none
    | .error _ => none

/-- The premise of R39 that time does not decrease: no time to come is below an earlier one, nor below the stamp of a valid cache. -/
abbrev State.TimeNonDecreasing (s : State) : Prop :=
  s.times.Pairwise (· ≤ ·) ∧ (s.hub.cache.validFlag = true → ∀ n ∈ s.times, s.hub.cache.lastReceivedTimestamp ≤ n)

/-- A step that resets the node `n`. -/
def resets (n : Node) (p : State × State) : Bool := p.2.result == some (.resetDone n)

/-! ### What a run's history says -/

/-- Whether the timer is armed after an output, if the output is in its place: armed only when disarmed and the other way
round (R193 (a), (c)). -/
def timerAfterOutput (armed : Option Bool) (o : Output) : Option Bool :=
  match armed with
  | none => none
  | some a =>
    match o with
    | .arm => if a then none else some true
    | .disarm => if a then some false else none
    | .tx _ => some a
    | .text _ => some a
    | .press _ => some a
    | .release _ => some a
    | .readAnalog => some a

/-- The timer after a step: its outputs in order, and disarmed by whatever resets the sampler (R290, R293). -/
def timerAfter (armed : Option Bool) (p : State × State) : Option Bool :=
  if resets .sampler p then armed.map fun _ => false else p.2.outputs.foldl timerAfterOutput armed

/-- The confirmed state of a button as its events tell it: a press only when released, a release only when pressed (R220). -/
def pressedAfterOutput (b : Button) (pressed : Option Bool) (o : Output) : Option Bool :=
  match pressed with
  | none => none
  | some a =>
    match o with
    | .press x => if x = b then (if a then none else some true) else some a
    | .release x => if x = b then (if a then some false else none) else some a
    | .tx _ => some a
    | .text _ => some a
    | .arm => some a
    | .disarm => some a
    | .readAnalog => some a

def pressedAfter (b : Button) (pressed : Option Bool) (p : State × State) : Option Bool :=
  if resets .hub p then pressed.map fun _ => false else p.2.outputs.foldl (pressedAfterOutput b) pressed

/-- The cache as the results tell it (R238 (a), (b)): a data frame is stored with the time of its step, a StopOk clears the
flag, nothing else writes. -/
def cacheAfter (k : Cache) (p : State × State) : Cache :=
  match p.2.result with
  | some (.data v) => ⟨v, true, p.2.inputs.now⟩
  | some (.acked .stopOk) => { k with validFlag := false }
  | _ => k

/-- 1 for a step that produced a sample (R29, R186). -/
def samplesIn (p : State × State) : Nat :=
  match p.2.result with
  | some (.sampled _ _) => 1
  | _ => 0

/-- The frame a step put into the queue of node `n`: the operand of a reception or `ENQ` that answered true. -/
def accepted (n : Node) (p : State × State) : List Frame :=
  if p.2.result = some (.enqueued true) then
    match p.1.current with
    | some (.enq m f) => if m = n then [f] else []
    | some (.smpRx f) => if n = .sampler then [f] else []
    | some (.hubRx f) => if n = .hub then [f] else []
    | _ => []
  else []

/-- The frame a step took from the queue of node `n`: what `DEQ` answered, or what stood oldest when a drain ran. -/
def taken (n : Node) (p : State × State) : List Frame :=
  match p.1.current with
  | some (.deq m) =>
    if m = n then
      match p.2.result with
      | some (.dequeued (some f)) => [f]
      | _ => []
    else []
  | some .smpDrain => if n = .sampler then (p.1.queue n).contents.take 1 else []
  | some .hubDrain => if n = .hub then (p.1.queue n).contents.take 1 else []
  | _ => []

/-! ### What cannot be observed -/

/-- Two queues with the same ring and the same live entries: they may differ in slots outside the live range (R79, U1). -/
abbrev Queue.Same (a b : Queue) : Prop :=
  a.Ring ∧ a.head = b.head ∧ a.tail = b.tail ∧ a.count = b.count ∧ a.contents = b.contents

/-- Two caches that no operation tells apart: they may differ in the value and the stamp while the flag is false (U2). -/
abbrev Cache.Same (a b : Cache) : Prop := a.validFlag = b.validFlag ∧ (a.validFlag = true → a = b)

/-- Two states that differ at most in what R40 leaves unspecified: dead slots, and the cache's value and stamp while it is
invalid. -/
abbrev State.Same (a b : State) : Prop :=
  a.cfg = b.cfg ∧ a.smp.q.Same b.smp.q ∧ a.smp.mode = b.smp.mode ∧ a.smp.sampleCounter = b.smp.sampleCounter
    ∧ a.hub.q.Same b.hub.q ∧ a.hub.btn1 = b.hub.btn1 ∧ a.hub.btn2 = b.hub.btn2 ∧ a.hub.cache.Same b.hub.cache
    ∧ a.agenda = b.agenda ∧ a.inputs = b.inputs ∧ a.outputs = b.outputs ∧ a.result = b.result ∧ a.draws = b.draws
    ∧ a.bench = b.bench

/-- What a run shows: the outputs and the result of each step. -/
def observe (k : Nat) (s : State) : List (List Output × Option Result) :=
  (trace k s).map fun p => (p.2.outputs, p.2.result)

/-- The transmissions among a step's outputs. -/
def isTx : Output → Bool
  | .tx _ => true
  | .arm => false
  | .disarm => false
  | .text _ => false
  | .press _ => false
  | .release _ => false
  | .readAnalog => false

end Sys2Proof.Machine
end

