-- ==== Sys2Proof/Certificates/Slice0/Obligations.lean ====
section
/-! DEFINITION. The statements for the provers. `s` is any state, `c` any configuration; well-formedness is a premise where a
statement needs it (R8: "A model states every rule only for well-formed configurations"). -/

open Sys2Proof Sys2Proof.Machine

/-! ### Encoding -/

/-- Every well-formed instruction is read back from its event word, every operand at every value. The frame words are
30_encoding.md's; the codes are its own numbering (D32), the operand bits above a code are the model's (log 3). -/
def Obligations.EncodeThenDecode : Prop :=
  ∀ (c : Config) (i : Instr), c.WellFormed → i.wf c = true → decode c (encode c i) = .ok i

/-- The other direction: an event word that decodes is the encoding of what it decodes to, which is well-formed; so no two
words stand for one instruction and no bit of a word is ignored. Operand bits above a code are the model's (log 3). -/
def Obligations.DecodeThenEncode : Prop :=
  ∀ (c : Config) (w : EventWord) (i : Instr), c.WellFormed → decode c w = .ok i → i.wf c = true ∧ encode c i = w

/-- Words of spec/opcode_table.json, one or more of each class and family, decode to their rows. They stand under the spec's
reference configuration (D5, log 2); an operand of a bare code is 0 (log 3). -/
def Obligations.TableWordsDecode : Prop :=
  decodeTableWord 80 0x10080100000000000000 = some (.cmdStart 8 Reserved.zero)
    ∧ decodeTableWord 80 0x10180200000000000000 = some (.cmdStop 8 Reserved.zero)
    ∧ decodeTableWord 80 0x20083030303030343536 = some (.dataAdc 456 8)
    ∧ decodeTableWord 80 0x3018FF00000000000000 = some (.ackError 8 Reserved.zero)
    ∧ decodeTableWord 80 0x10087E00000000000000 = some (.cmdUnrecognised .start 0x7E 8 Reserved.zero)
    ∧ decodeTableWord 8 0x01 = some (.encAdc 0)
    ∧ decodeTableWord 8 0x07 = some (.deq .sampler)
    ∧ decodeTableWord 8 0x0E = some .smpTick
    ∧ decodeTableWord 8 0x0F = some (.btnPoll .one)
    ∧ decodeTableWord 8 0x17 = some .hubQuery
    ∧ decodeTableWord 8 0x18 = some (.reset .sampler)

/-- The canonical frame word of 30_encoding.md section 1 (D32) places every field where the section says, loses nothing, and
spells a frame exactly when its length field is 0 to 8 (D6; the refusal of 9 to 15 is the model's, log 16). -/
def Obligations.FrameWordLayout : Prop :=
  (∀ f : Frame, f.toWord.extractLsb' 68 11 = f.id ∧ (f.toWord.extractLsb' 64 4).toNat = f.dlc.val
      ∧ f.toWord.extractLsb' 56 8 = f.data.d0 ∧ f.toWord.extractLsb' 48 8 = f.data.d1
      ∧ f.toWord.extractLsb' 40 8 = f.data.d2 ∧ f.toWord.extractLsb' 32 8 = f.data.d3
      ∧ f.toWord.extractLsb' 24 8 = f.data.d4 ∧ f.toWord.extractLsb' 16 8 = f.data.d5
      ∧ f.toWord.extractLsb' 8 8 = f.data.d6 ∧ f.toWord.extractLsb' 0 8 = f.data.d7)
    ∧ (∀ f : Frame, Frame.ofWord f.toWord = some f)
    ∧ (∀ (w : FrameWord) (f : Frame), Frame.ofWord w = some f → f.toWord = w)
    ∧ (∀ w : FrameWord, Frame.ofWord w = none ↔ 8 < (w.extractLsb' 64 4).toNat)

/-- Codes 0x19 to 0x1F are no operation (D32); nor, by the model's layout, is a word with a bit of 7..5 set (log 3, 16). -/
def Obligations.UnassignedCodesAreNoOperation : Prop :=
  ∀ (c : Config) (w : Nat), (0x19 ≤ w % 256 → w % 256 ≤ 0x1F → decode c (.op w) = .error .unassignedCode)
    ∧ (0x20 ≤ w % 256 → decode c (.op w) = .error .reservedBits)

/-! ### The codec -/

/-- The round trips of 40_codec.md section 4, which the spec derives, and its last sentence: the command and acknowledge
decoders do not read the reserved bytes (D7). -/
def Obligations.CodecRoundTrips : Prop :=
  ∀ c : Config, c.WellFormed →
    (decCmd c (encCmd c .start) = .ok .start ∧ decCmd c (encCmd c .stop) = .ok .stop)
    ∧ (∀ v : AdcValue, ∃ f, encAdc c v.toNat = .ok f ∧ decAdc c f = .ok v)
    ∧ (∀ a : Ack, decAck c (encAck c a) = .ok a)
    ∧ (∀ (f : Frame) (v : AdcValue), decAdc c f = .ok v →
        ∃ g, encAdc c v.toNat = .ok g ∧ g.id = f.id ∧ g.data = f.data ∧ (f.dlc = 8 → g.dlc = f.dlc))
    ∧ (∀ (f : Frame) (r : Reserved), decCmd c { f with data := Payload.tagged f.data.d0 r } = decCmd c f
        ∧ decAck c { f with data := Payload.tagged f.data.d0 r } = decAck c f)

/-- 40_codec.md section 4, which the spec derives: a frame made by one encoder is refused by the decoders of the other two
kinds, and no frame is of two kinds. -/
def Obligations.CrossKindRefusal : Prop :=
  ∀ c : Config, c.WellFormed →
    (∀ x : Command, decAdc c (encCmd c x) = .error .malformedFrame ∧ decAck c (encCmd c x) = .error .malformedFrame)
    ∧ (∀ (v : Nat) (f : Frame), encAdc c v = .ok f →
        decCmd c f = .error .malformedFrame ∧ decAck c f = .error .malformedFrame)
    ∧ (∀ a : Ack, decCmd c (encAck c a) = .error .malformedFrame ∧ decAdc c (encAck c a) = .error .malformedFrame)
    ∧ (∀ (f : Frame) (x : DecodedCommand), decCmd c f = .ok x →
        decAck c f = .error .malformedFrame ∧ decAdc c f = .error .malformedFrame)
    ∧ (∀ (f : Frame) (a : Ack), decAck c f = .ok a → decAdc c f = .error .malformedFrame)

/-- R94, R95, R132: up to 4095 `ENC.ADC` answers a frame on the data identifier of length 8 whose payload is the decimal numeral
padded with zeros to eight digits (R95), each digit as its digit byte (R94); above 4095 it answers `OutOfRange` and there is no
frame (R132). -/
def Obligations.AdcPayloadIsTheNumeral : Prop :=
  ∀ c : Config, c.WellFormed → ∀ v : Nat,
    (4095 < v → encAdc c v = .error (.outOfRange v))
    ∧ (v ≤ 4095 → ∃ f, encAdc c v = .ok f ∧ f.id = c.idAdcData ∧ f.dlc = 8
        ∧ f.data.d0 = c.digitBase ∧ f.data.d1 = c.digitBase ∧ f.data.d2 = c.digitBase ∧ f.data.d3 = c.digitBase
        ∧ f.data.d4.toNat = c.digitBase.toNat + v / 1000 ∧ f.data.d5.toNat = c.digitBase.toNat + v / 100 % 10
        ∧ f.data.d6.toNat = c.digitBase.toNat + v / 10 % 10 ∧ f.data.d7.toNat = c.digitBase.toNat + v % 10)

/-- The decode direction of 30_encoding.md section 3 as one equivalence: a data frame decodes exactly when every byte is a digit
byte and the digits spell at most 4095; the value is the one they spell. -/
def Obligations.AdcDecodesExactlyTheLegalPayloads : Prop :=
  ∀ c : Config, c.WellFormed → ∀ (f : Frame) (v : AdcValue),
    decAdc c f = .ok v ↔
      f.id = c.idAdcData
        ∧ (∀ b ∈ f.data.bytes, c.digitBase.toNat ≤ b.toNat ∧ b.toNat ≤ c.digitBase.toNat + 9)
        ∧ v.toNat = (f.data.d0.toNat - c.digitBase.toNat) * 10 ^ 7 + (f.data.d1.toNat - c.digitBase.toNat) * 10 ^ 6
            + (f.data.d2.toNat - c.digitBase.toNat) * 10 ^ 5 + (f.data.d3.toNat - c.digitBase.toNat) * 10 ^ 4
            + (f.data.d4.toNat - c.digitBase.toNat) * 10 ^ 3 + (f.data.d5.toNat - c.digitBase.toNat) * 10 ^ 2
            + (f.data.d6.toNat - c.digitBase.toNat) * 10 + (f.data.d7.toNat - c.digitBase.toNat)

/-- R131, R132: what `ENC.CMD` and `ENC.ADC` answer; nothing else of the state changes. On `OutOfRange` no frame exists. -/
def Obligations.CommandAndAdcEncodersAnswer : Prop :=
  ∀ s : State,
    exec (.encCmd .start) s = .next { s with
        outputs := [], result := some (.frame ⟨s.cfg.idCmdStart, 8, ⟨s.cfg.tagCmdStart, 0, 0, 0, 0, 0, 0, 0⟩⟩) }
    ∧ exec (.encCmd .stop) s = .next { s with
        outputs := [], result := some (.frame ⟨s.cfg.idCmdStop, 8, ⟨s.cfg.tagCmdStop, 0, 0, 0, 0, 0, 0, 0⟩⟩) }
    ∧ (s.cfg.WellFormed → ∀ v : Nat, 4095 < v →
        exec (.encAdc v) s = .next { s with outputs := [], result := some (.err (.outOfRange v)) })
    ∧ (s.cfg.WellFormed → ∀ v : Nat, v ≤ 4095 → ∃ d4 d5 d6 d7 : Byte,
        exec (.encAdc v) s = .next { s with outputs := [], result := some (.frame ⟨s.cfg.idAdcData, 8,
          ⟨s.cfg.digitBase, s.cfg.digitBase, s.cfg.digitBase, s.cfg.digitBase, d4, d5, d6, d7⟩⟩) }
        ∧ d4.toNat = s.cfg.digitBase.toNat + v / 1000 ∧ d5.toNat = s.cfg.digitBase.toNat + v / 100 % 10
        ∧ d6.toNat = s.cfg.digitBase.toNat + v / 10 % 10 ∧ d7.toNat = s.cfg.digitBase.toNat + v % 10)

/-- What `ENC.ACK` answers (40_codec.md section 2): Error goes out on the Stop-ack identifier. That the reserved bytes are zero is
the spec's decision D7. -/
def Obligations.AckEncoderAnswers : Prop :=
  ∀ s : State,
    exec (.encAck .startOk) s = .next { s with
        outputs := [], result := some (.frame ⟨s.cfg.idAckStart, 8, ⟨s.cfg.tagAckStartOk, 0, 0, 0, 0, 0, 0, 0⟩⟩) }
    ∧ exec (.encAck .stopOk) s = .next { s with
        outputs := [], result := some (.frame ⟨s.cfg.idAckStop, 8, ⟨s.cfg.tagAckStopOk, 0, 0, 0, 0, 0, 0, 0⟩⟩) }
    ∧ exec (.encAck .error) s = .next { s with
        outputs := [], result := some (.frame ⟨s.cfg.idAckStop, 8, ⟨s.cfg.tagAckError, 0, 0, 0, 0, 0, 0, 0⟩⟩) }

/-- The three verdicts of `DEC.CMD` (40_codec.md section 3), the identifier tested first; nothing else of the state changes.
That a frame on one command identifier with the other's tag is unrecognised is the spec's decision D8. -/
def Obligations.CommandDecoderAnswers : Prop :=
  ∀ (f : Frame) (s : State),
    (f.id ≠ s.cfg.idCmdStart → f.id ≠ s.cfg.idCmdStop →
      exec (.decCmd f) s = .next { s with outputs := [], result := some (.err .malformedFrame) })
    ∧ (f.id = s.cfg.idCmdStart → f.data.d0 = s.cfg.tagCmdStart →
      exec (.decCmd f) s = .next { s with outputs := [], result := some (.command .start) })
    ∧ (s.cfg.WellFormed → f.id = s.cfg.idCmdStop → f.data.d0 = s.cfg.tagCmdStop →
      exec (.decCmd f) s = .next { s with outputs := [], result := some (.command .stop) })
    ∧ (s.cfg.WellFormed → f.id = s.cfg.idCmdStart → f.data.d0 ≠ s.cfg.tagCmdStart →
      exec (.decCmd f) s = .next { s with outputs := [], result := some (.command (.unrecognised f.id f.data.d0)) })
    ∧ (s.cfg.WellFormed → f.id = s.cfg.idCmdStop → f.data.d0 ≠ s.cfg.tagCmdStop →
      exec (.decCmd f) s = .next { s with outputs := [], result := some (.command (.unrecognised f.id f.data.d0)) })

/-- `DEC.ACK` (40_codec.md section 3) accepts the three legal pairs and nothing else, the spec's decision D9; nothing else of the
state changes. -/
def Obligations.AckDecoderAnswers : Prop :=
  ∀ (f : Frame) (s : State), s.cfg.WellFormed →
    (f.id = s.cfg.idAckStart → f.data.d0 = s.cfg.tagAckStartOk →
      exec (.decAck f) s = .next { s with outputs := [], result := some (.acknowledge .startOk) })
    ∧ (f.id = s.cfg.idAckStop → f.data.d0 = s.cfg.tagAckStopOk →
      exec (.decAck f) s = .next { s with outputs := [], result := some (.acknowledge .stopOk) })
    ∧ (f.id = s.cfg.idAckStop → f.data.d0 = s.cfg.tagAckError →
      exec (.decAck f) s = .next { s with outputs := [], result := some (.acknowledge .error) })
    ∧ (¬(f.id = s.cfg.idAckStart ∧ f.data.d0 = s.cfg.tagAckStartOk) →
      ¬(f.id = s.cfg.idAckStop ∧ (f.data.d0 = s.cfg.tagAckStopOk ∨ f.data.d0 = s.cfg.tagAckError)) →
      exec (.decAck f) s = .next { s with outputs := [], result := some (.err .malformedFrame) })

/-- R135: `DEC.ADC` answers the value the eight digits spell, and `MalformedFrame` for a wrong identifier, for a byte that is no
digit byte, and for digits that spell more than 4095; nothing else of the state changes. -/
def Obligations.AdcDecoderAnswers : Prop :=
  ∀ (f : Frame) (s : State) (n : Nat), s.cfg.WellFormed →
    n = (f.data.d0.toNat - s.cfg.digitBase.toNat) * 10 ^ 7 + (f.data.d1.toNat - s.cfg.digitBase.toNat) * 10 ^ 6
      + (f.data.d2.toNat - s.cfg.digitBase.toNat) * 10 ^ 5 + (f.data.d3.toNat - s.cfg.digitBase.toNat) * 10 ^ 4
      + (f.data.d4.toNat - s.cfg.digitBase.toNat) * 10 ^ 3 + (f.data.d5.toNat - s.cfg.digitBase.toNat) * 10 ^ 2
      + (f.data.d6.toNat - s.cfg.digitBase.toNat) * 10 + (f.data.d7.toNat - s.cfg.digitBase.toNat) →
    (f.id ≠ s.cfg.idAdcData →
      exec (.decAdc f) s = .next { s with outputs := [], result := some (.err .malformedFrame) })
    ∧ (∀ b ∈ f.data.bytes, b.toNat < s.cfg.digitBase.toNat ∨ s.cfg.digitBase.toNat + 9 < b.toNat →
      exec (.decAdc f) s = .next { s with outputs := [], result := some (.err .malformedFrame) })
    ∧ (f.id = s.cfg.idAdcData →
      (∀ b ∈ f.data.bytes, s.cfg.digitBase.toNat ≤ b.toNat ∧ b.toNat ≤ s.cfg.digitBase.toNat + 9) →
      (n ≤ 4095 → exec (.decAdc f) s = .next { s with outputs := [], result := some (.value (BitVec.ofNat 12 n)) })
      ∧ (4095 < n → exec (.decAdc f) s = .next { s with outputs := [], result := some (.err .malformedFrame) }))

/-! ### The queue -/

/-- R160: with room, `ENQ` stores the frame at the head, advances the head modulo 8 and the count, and changes no other slot
and nothing else; on a full queue the arriving frame is dropped, the answer is false and nothing of the queue changes. -/
def Obligations.EnqueueStoresOrDrops : Prop :=
  ∀ (n : Node) (f : Frame) (s : State),
    ((s.queue n).count.val = 8 →
      exec (.enq n f) s = .next { s with outputs := [], result := some (.enqueued false) })
    ∧ ((s.queue n).count.val < 8 → ∃ q : Queue,
      exec (.enq n f) s = .next { (s.setQueue n q) with outputs := [], result := some (.enqueued true) }
      ∧ q.memRead (s.queue n).head = f
      ∧ (∀ k : Fin 8, k ≠ (s.queue n).head → q.memRead k = (s.queue n).memRead k)
      ∧ q.head.val = ((s.queue n).head.val + 1) % 8 ∧ q.tail = (s.queue n).tail
      ∧ q.count.val = (s.queue n).count.val + 1)

/-- Each node's reception handler is the enqueue into its own queue, whatever the frame (42_sampler.md section 1, 44_hub_bridge.md
section 1): that it filters nothing is the spec's decision D11. And who calls what (41_queue.md section 2): in a run of the nodes
only the node's reception puts a frame into its queue and only its drain takes one out, `RESET` apart. That a run is told by an
empty bench is the model's (log 5). -/
def Obligations.ReceptionEnqueues : Prop :=
  (∀ (f : Frame) (s : State),
    (∃ t, exec (.smpRx f) s = .next t ∧ exec (.enq .sampler f) s = .next t ∧ t.outputs = [])
    ∧ (∃ t, exec (.hubRx f) s = .next t ∧ exec (.enq .hub f) s = .next t ∧ t.outputs = []))
    ∧ (∀ (n : Node) (s t : State), s.InRun → step s = .next t →
      ((t.queue n).head ≠ (s.queue n).head ∨ (t.queue n).slots ≠ (s.queue n).slots →
        s.current = some (.reset n) ∨ ∃ f, s.current = some (reception f n))
      ∧ ((t.queue n).tail ≠ (s.queue n).tail → s.current = some (.reset n) ∨ s.current = some (drain n)))

/-- R161: `DEQ` answers the frame at the tail, advances the tail modulo 8 and takes one off the count; no slot changes. On an
empty queue it answers none and changes nothing. -/
def Obligations.DequeueTakesFromTail : Prop :=
  ∀ (n : Node) (s : State),
    ((s.queue n).count.val = 0 → exec (.deq n) s = .next { s with outputs := [], result := some (.dequeued none) })
    ∧ (0 < (s.queue n).count.val → ∃ q : Queue,
        exec (.deq n) s = .next { (s.setQueue n q) with
          outputs := [], result := some (.dequeued (some ((s.queue n).memRead (s.queue n).tail))) }
        ∧ (∀ k : Fin 8, q.memRead k = (s.queue n).memRead k)
        ∧ q.tail.val = ((s.queue n).tail.val + 1) % 8 ∧ q.head = (s.queue n).head
        ∧ q.count.val + 1 = (s.queue n).count.val)

/-- The status read (41_queue.md section 1; an operation by the spec's decision D32) answers the count, empty and full, and
changes nothing; empty and full are never both true. -/
def Obligations.StatusReadAnswers : Prop :=
  ∀ (n : Node) (s : State), ∃ e u : Bool,
    exec (.qstat n) s = .next { s with outputs := [], result := some (.queueStatus (s.queue n).count.val e u) }
      ∧ (e = true ↔ (s.queue n).count.val = 0) ∧ (u = true ↔ (s.queue n).count.val = 8) ∧ ¬(e = true ∧ u = true)

/-- The ring of 10_state.md section 2, which the spec derives: every step keeps it for both queues; the live entries are the
`count` slots from the tail on; head and tail meet exactly when the queue is empty or full. -/
def Obligations.QueueRingKept : Prop :=
  (∀ s t : State, step s = .next t → s.smp.q.Ring → s.hub.q.Ring → t.smp.q.Ring ∧ t.hub.q.Ring)
    ∧ (∀ c : Config, (State.powerOn c).smp.q.Ring ∧ (State.powerOn c).hub.q.Ring)
    ∧ (∀ q : Queue, q.Ring → q.count.val ≤ 8 ∧ q.contents.length = q.count.val
        ∧ (∀ k : Nat, k < q.count.val → ∃ j : Fin 8, j.val = (q.tail.val + k) % 8 ∧ q.contents[k]? = some (q.memRead j))
        ∧ (q.head = q.tail ↔ q.count.val = 0 ∨ q.count.val = 8))

/-- The FIFO law of 41_queue.md section 3, which the spec derives: over every run that does not reset the node, the frames taken
are the frames that stood in the queue and the frames accepted, in that order; so from an empty queue the k-th frame taken is
the k-th accepted. Runs follow the model's agenda (log 1). -/
def Obligations.QueueIsFirstInFirstOut : Prop :=
  ∀ (n : Node) (k : Nat) (s : State), (s.queue n).Ring → (∀ p ∈ trace k s, resets n p = false) →
    (s.queue n).contents ++ (trace k s).flatMap (accepted n)
        = (trace k s).flatMap (taken n) ++ ((final k s).queue n).contents
    ∧ ((s.queue n).contents = [] → ∀ (j : Nat) (f : Frame), ((trace k s).flatMap (taken n))[j]? = some f →
        ((trace k s).flatMap (accepted n))[j]? = some f)

/-- The capacity law of 41_queue.md section 3, which the spec derives: over every run that does not reset the node, accepted minus
taken is the change of the count, which never leaves 0 to 8. -/
def Obligations.QueueCapacityLaw : Prop :=
  ∀ (n : Node) (k : Nat) (s : State), (s.queue n).Ring → (∀ p ∈ trace k s, resets n p = false) →
    (s.queue n).count.val + ((trace k s).flatMap (accepted n)).length
        = ((trace k s).flatMap (taken n)).length + ((final k s).queue n).count.val
    ∧ ((final k s).queue n).count.val ≤ 8

/-! ### The sampler -/

/-- The Start handler of 42_sampler.md section 2: in Idle the state moves to Sampling, the timer is armed and the acknowledge
sent, whatever `transmit` answers; in the other two states nothing but the answer AlreadyActive. That Sampling answers
nothing on the bus is the spec's decision D14, the order of the outputs its decision D35. -/
def Obligations.StartCommandTable : Prop :=
  ∀ s : State,
    (s.smp.mode = .idle → exec .smpStart s = .next { s with
      smp := { s.smp with mode := .sampling }
      outputs := [.arm, .tx (encAck s.cfg .startOk)]
      result := some (.started s.inputs.tx) })
    ∧ (s.smp.mode ≠ .idle → exec .smpStart s = .next { s with outputs := [], result := some .alreadyActive })

/-- The Stop handler of 42_sampler.md section 2: in Sampling, in Idle, and in Error by the open parameter
`ACK_ON_STOP_IN_ERROR` (the spec's decisions D15, D35, D36). -/
def Obligations.StopCommandTable : Prop :=
  ∀ s : State,
    (s.smp.mode = .sampling → exec .smpStop s = .next { s with
      smp := { s.smp with mode := .idle }
      outputs := [.disarm, .tx (encAck s.cfg .stopOk)]
      result := some (.stopped s.inputs.tx) })
    ∧ (s.smp.mode = .idle → exec .smpStop s = .next { s with
      outputs := [.tx (encAck s.cfg .stopOk)], result := some (.stopped s.inputs.tx) })
    ∧ (s.smp.mode = .error → s.cfg.ackOnStopInError = none →
      exec .smpStop s = .next { s with outputs := [], result := some .ignored })
    ∧ (∀ a, s.smp.mode = .error → s.cfg.ackOnStopInError = some a → exec .smpStop s = .next { s with
      outputs := [.tx (encAck s.cfg a)], result := some (.refusedStop s.inputs.tx) })

/-- R185: in every state an unrecognised command is answered with the Error acknowledge, on the Stop-ack identifier, and
nothing changes. -/
def Obligations.UnknownCommandIsAnsweredWithError : Prop :=
  ∀ s : State, (encAck s.cfg .error).id = s.cfg.idAckStop
    ∧ exec .smpUnknown s = .next { s with
      outputs := [.tx (encAck s.cfg .error)], result := some (.rejected s.inputs.tx) }

/-- The tick of 42_sampler.md section 3, for every state and every answer of the converter. That the counter counts samples is
the spec's decision D17, that a reading above 4095 skips the tick D18, that a tick outside Sampling is ignored D33. -/
def Obligations.TickTable : Prop :=
  ∀ s : State,
    (s.smp.mode ≠ .sampling → exec .smpTick s = .next { s with outputs := [], result := some .ignored })
    ∧ (∀ hw, s.smp.mode = .sampling → s.inputs.analog = .err hw → exec .smpTick s = .next { s with
      outputs := [.readAnalog], result := some (.skipped (.hwFailure hw)) })
    ∧ (∀ raw, s.cfg.WellFormed → s.smp.mode = .sampling → s.inputs.analog = .ok raw → 4095 < raw → exec .smpTick s = .next { s with
      outputs := [.readAnalog], result := some (.skipped (.outOfRange raw)) })
    ∧ (∀ raw, s.cfg.WellFormed → s.smp.mode = .sampling → s.inputs.analog = .ok raw → raw ≤ 4095 → ∃ f, encAdc s.cfg raw = .ok f
      ∧ exec .smpTick s = .next { s with
        smp := { s.smp with sampleCounter := s.smp.sampleCounter + 1 }
        outputs := [.readAnalog, .tx f]
        result := some (.sampled raw s.inputs.tx) })

/-- As an instruction a wire message does what its handler does (30_encoding.md section 4), whatever its declared length and
reserved bytes (D6, D7). That a wire message is an instruction in this sense is the model's reading (log 4). -/
def Obligations.WireMessagesRunTheirHandlers : Prop :=
  ∀ (dlc : Fin 9) (r : Reserved) (s : State),
    (∃ t, exec (.cmdStart dlc r) s = .next t ∧ exec .smpStart s = .next t)
    ∧ (∃ t, exec (.cmdStop dlc r) s = .next t ∧ exec .smpStop s = .next t)
    ∧ (∀ which tag, ∃ t, exec (.cmdUnrecognised which tag dlc r) s = .next t ∧ exec .smpUnknown s = .next t)
    ∧ (∀ v, ∃ t, exec (.dataAdc v dlc) s = .next t ∧ exec (.hubData v) s = .next t)
    ∧ (∃ t, exec (.ackStartOk dlc r) s = .next t ∧ exec (.hubAck .startOk) s = .next t)
    ∧ (∃ t, exec (.ackStopOk dlc r) s = .next t ∧ exec (.hubAck .stopOk) s = .next t)
    ∧ (∃ t, exec (.ackError dlc r) s = .next t ∧ exec (.hubAck .error) s = .next t)

/-- The sampler's drain (42_sampler.md section 1; one frame a pass is the spec's decision D12): it takes the oldest frame and runs
the handler of what `DEC.CMD` makes of it; a frame that is no command is dropped; an empty queue changes nothing. And commands
reach the state machine only through the queue: in a run of the nodes (an empty bench, log 5) no step but the drain, and `RESET`,
changes the state. -/
def Obligations.SamplerDrainTable : Prop :=
  ∀ s : State,
    (s.smp.q.count.val = 0 → exec .smpDrain s = .next { s with outputs := [], result := some .empty })
    ∧ (∀ (f : Frame) (q : Queue), s.smp.q.deq = some (f, q) →
      (decCmd s.cfg f = .error .malformedFrame → exec .smpDrain s = .next { s with
        smp := { s.smp with q := q }, outputs := [], result := some .discarded })
      ∧ (decCmd s.cfg f = .ok .start → ∃ t, exec .smpDrain s = .next t
        ∧ exec .smpStart { s with smp := { s.smp with q := q } } = .next t)
      ∧ (decCmd s.cfg f = .ok .stop → ∃ t, exec .smpDrain s = .next t
        ∧ exec .smpStop { s with smp := { s.smp with q := q } } = .next t)
      ∧ (∀ id tag, decCmd s.cfg f = .ok (.unrecognised id tag) → ∃ t, exec .smpDrain s = .next t
        ∧ exec .smpUnknown { s with smp := { s.smp with q := q } } = .next t))
    ∧ (∀ t, s.InRun → step s = .next t → t.smp.mode ≠ s.smp.mode →
      s.current = some .smpDrain ∨ s.current = some (.reset .sampler))

/-- The whole path of a wire message (30_encoding.md sections 4 and 5; log 4). When the oldest frame of a node's queue spells the
wire instruction `i`, that node's drain takes the frame off and does exactly what `i` does, if the node consumes that kind; if
it does not, or if the frame spells no message, the frame is dropped with no other effect. Which kinds a node consumes, and that
the others are dropped, is the spec's decision D34. -/
def Obligations.DrainRunsTheWireInstruction : Prop :=
  ∀ (n : Node) (drain : Instr) (s : State) (f : Frame) (q : Queue), s.cfg.WellFormed →
    ((n = .sampler ∧ drain = .smpDrain) ∨ (n = .hub ∧ drain = .hubDrain)) → (s.queue n).deq = some (f, q) →
    (∀ i, s.cfg.instrOfFrame f = .ok i → owner i = some n → exec drain s = exec i (s.setQueue n q))
    ∧ (∀ i, s.cfg.instrOfFrame f = .ok i → owner i ≠ some n →
        exec drain s = .next { (s.setQueue n q) with outputs := [], result := some .discarded })
    ∧ (∀ r, s.cfg.instrOfFrame f = .error r →
        exec drain s = .next { (s.setQueue n q) with outputs := [], result := some .discarded })

/-- Laws (a), (c) of 42_sampler.md section 5, which the spec derives: over every run, `Arm` and `Disarm` alternate, and by them
the timer is armed exactly when the state is Sampling. That a reset of the sampler leaves the timer disarmed is the spec's
decision D39. -/
def Obligations.TimerArmedExactlyWhileSampling : Prop :=
  ∀ (k : Nat) (s : State),
    (trace k s).foldl timerAfter (some (s.smp.mode == .sampling)) = some ((final k s).smp.mode == .sampling)

/-- Law (b) of 42_sampler.md section 5, which the spec derives: a frame on the data identifier is transmitted only by a tick that
ran in Sampling. -/
def Obligations.DataFramesOnlyWhileSampling : Prop :=
  ∀ (i : Instr) (s t : State) (f : Frame), s.cfg.WellFormed → exec i s = .next t → .tx f ∈ t.outputs →
    f.id = s.cfg.idAdcData → i = .smpTick ∧ s.smp.mode = .sampling ∧ t.smp.mode = .sampling

/-- Law (d) of 42_sampler.md section 5, which the spec derives: no step transmits more than one frame. -/
def Obligations.AtMostOneTransmission : Prop :=
  ∀ (i : Instr) (s t : State), exec i s = .next t → (t.outputs.filter isTx).length ≤ 1

/-- The state Error (42_sampler.md section 5; the spec's decision D16): no step enters it, and only a reset of the sampler leaves
it. -/
def Obligations.ErrorIsNeverEnteredAndOnlyResetLeavesIt : Prop :=
  (∀ s t : State, step s = .next t → s.smp.mode ≠ .error → t.smp.mode ≠ .error)
    ∧ (∀ s t : State, step s = .next t → s.smp.mode = .error → t.smp.mode = .error ∨ s.current = some (.reset .sampler))
    ∧ (∀ c : Config, (State.powerOn c).smp.mode = .idle)

/-- The sample counter (42_sampler.md section 5; the spec's decision D17): over every run without a reset of the sampler it grows,
modulo 2^32, by the number of steps that produced a sample, and by nothing else. -/
def Obligations.SampleCounterCountsSamples : Prop :=
  ∀ (k : Nat) (s : State), (∀ p ∈ trace k s, resets .sampler p = false) →
    (final k s).smp.sampleCounter = s.smp.sampleCounter + BitVec.ofNat 32 ((trace k s).map samplesIn).sum

/-- Law (e) of 42_sampler.md section 5, which the spec derives: any number of Stops in a row leave Idle, and each is answered
StopOk. The Stops come by the only path they have: they stand in the sampler's queue or are received while the drain takes them,
in any order of receptions and passes on the model's agenda (log 1). One frame a pass is the spec's decision D12. The state Error,
from which no run starts (decision D16, log 17), is left to the Stop handler's own statement. -/
def Obligations.RepeatedStopsAreIdempotent : Prop :=
  ∀ (k : Nat) (s : State), s.cfg.WellFormed → s.InRun → s.smp.mode ≠ .error → s.smp.q.Ring →
    (∀ f ∈ s.smp.q.contents, decCmd s.cfg f = .ok .stop) →
    (∀ e ∈ s.agenda, decode s.cfg e.word = .ok .smpDrain
      ∨ ∃ f, decode s.cfg e.word = .ok (.smpRx f) ∧ decCmd s.cfg f = .ok .stop) →
    (trace k s).length = k
    ∧ ∀ p ∈ trace k s,
      (p.1.smp.mode = .idle → p.2.smp.mode = .idle)
      ∧ (p.1.current = some .smpDrain → 0 < p.1.smp.q.count.val →
        p.2.smp.mode = .idle ∧ (∃ r, p.2.result = some (.stopped r))
        ∧ p.2.outputs = (if p.1.smp.mode = .sampling then [.disarm, .tx (encAck s.cfg .stopOk)]
            else [.tx (encAck s.cfg .stopOk)]))

/-! ### The buttons -/

/-- R210: one poll, in the four cases of the filter; the other button's record and all else stay. -/
def Obligations.PollTable : Prop :=
  ∀ (b : Button) (s : State) (x : ButtonState) (raw : Bool), s.hub.btn b = x →
    raw = (s.inputs.level == pressedLevel s.cfg b) →
    (raw ≠ x.lastRawSample → exec (.btnPoll b) s = .next { s with
      hub := s.hub.setBtn b ⟨x.currentPressed, raw, s.cfg.debounceTicks⟩
      outputs := [], result := some .noEvent })
    ∧ (raw = x.lastRawSample → x.debounceCounter = 0 → exec (.btnPoll b) s = .next { s with
      outputs := [], result := some .noEvent })
    ∧ (raw = x.lastRawSample → x.debounceCounter ≠ 0 →
      (x.debounceCounter ≠ 1 ∨ x.currentPressed = raw) → exec (.btnPoll b) s = .next { s with
      hub := s.hub.setBtn b ⟨x.currentPressed, raw, x.debounceCounter - 1⟩
      outputs := [], result := some .noEvent })
    ∧ (raw = x.lastRawSample → x.debounceCounter = 1 → x.currentPressed = false → raw = true →
      exec (.btnPoll b) s = .next { s with
        hub := s.hub.setBtn b ⟨true, true, 0⟩
        outputs := [.press b, .tx (encCmd s.cfg (buttonCommand b))]
        result := some (.pressed b s.inputs.tx) })
    ∧ (raw = x.lastRawSample → x.debounceCounter = 1 → x.currentPressed = true → raw = false →
      exec (.btnPoll b) s = .next { s with
        hub := s.hub.setBtn b ⟨false, false, 0⟩
        outputs := [.release b]
        result := some (.released b) })

/-- R212, R213: button 1 sends Start, button 2 Stop, whatever `transmit` answers; a release does nothing. -/
def Obligations.PressSendsReleaseDoesNothing : Prop :=
  ∀ s : State,
    exec (.hubPress .one) s = .next { s with
      outputs := [.tx (encCmd s.cfg .start)], result := some (.pressed .one s.inputs.tx) }
    ∧ exec (.hubPress .two) s = .next { s with
      outputs := [.tx (encCmd s.cfg .stop)], result := some (.pressed .two s.inputs.tx) }
    ∧ (∀ b, exec (.hubRelease b) s = .next { s with outputs := [], result := some (.released b) })

/-- The edge interrupt has no effect (43_debounce.md section 3; that its flag is no state is the spec's decision D23). -/
def Obligations.EdgeInterruptHasNoEffect : Prop :=
  ∀ s : State, exec .hubEdge s = .next { s with outputs := [], result := some .edgeDone }

/-- 43_debounce.md section 4, which the spec derives: every poll keeps the counter between 0 and `DEBOUNCE_TICKS`; with a window of
0 no poll of a button at counter 0 ever emits an event or moves the counter. -/
def Obligations.DebounceCounterStaysInWindow : Prop :=
  ∀ (a b : Button) (s t : State), exec (.btnPoll a) s = .next t →
    ((s.hub.btn b).debounceCounter.toNat ≤ s.cfg.debounceTicks.toNat →
      (t.hub.btn b).debounceCounter.toNat ≤ s.cfg.debounceTicks.toNat)
    ∧ (s.cfg.debounceTicks = 0 → (s.hub.btn a).debounceCounter = 0 →
      (t.hub.btn a).debounceCounter = 0 ∧ t.outputs = [] ∧ t.result = some .noEvent)

/-- The counting law (43_debounce.md section 4; the spec derives it from R210). Whatever the confirmed state `x` and the counter
when the level changes to `v`: on `N + 1` polls in a row that read `v`, `N` the window, the first `N` give no event, and the last
gives the event exactly when `v` differs from `x`; fewer polls give none. So only the last change counts. -/
def Obligations.DebounceCountingLaw : Prop :=
  ∀ (b : Button) (x v : Bool) (n : BitVec 32) (ins : List Inputs) (rest : List Event) (s : State), s.cfg.WellFormed → s.InRun →
    s.hub.btn b = ⟨x, !v, n⟩ → (∀ y ∈ ins, (y.level == pressedLevel s.cfg b) = v) →
    s.agenda = ins.map (fun y => ⟨encode s.cfg (.btnPoll b), y⟩) ++ rest →
    (ins.length ≤ s.cfg.debounceTicks.toNat →
      (trace ins.length s).length = ins.length
      ∧ ∀ p ∈ trace ins.length s, p.2.outputs = [] ∧ p.2.result = some .noEvent ∧ (p.2.hub.btn b).currentPressed = x)
    ∧ (ins.length = s.cfg.debounceTicks.toNat + 1 →
      (trace ins.length s).length = ins.length
      ∧ (∀ p ∈ (trace ins.length s).dropLast, p.2.outputs = [] ∧ p.2.result = some .noEvent)
      ∧ (final ins.length s).hub.btn b = ⟨v, v, 0⟩
      ∧ (final ins.length s).outputs =
          (if x = v then [] else if v then [.press b, .tx (encCmd s.cfg (buttonCommand b))] else [.release b]))

/-- The glitch law (43_debounce.md section 4; the spec derives it from R210). From rest at `x`, one poll that reads the other way
and then any number of polls that read `x` again give no event and leave the confirmed state; after the window the button is at
rest again. -/
def Obligations.DebounceGlitchLaw : Prop :=
  ∀ (b : Button) (x : Bool) (g : Inputs) (ins : List Inputs) (rest : List Event) (s : State), s.cfg.WellFormed → s.InRun →
    s.hub.btn b = ⟨x, x, 0⟩ → (g.level == pressedLevel s.cfg b) = (!x) →
    (∀ y ∈ ins, (y.level == pressedLevel s.cfg b) = x) →
    s.agenda = (g :: ins).map (fun y => ⟨encode s.cfg (.btnPoll b), y⟩) ++ rest →
    (trace (ins.length + 1) s).length = ins.length + 1
    ∧ (∀ p ∈ trace (ins.length + 1) s, p.2.outputs = [] ∧ p.2.result = some .noEvent
        ∧ (p.2.hub.btn b).currentPressed = x)
    ∧ (s.cfg.debounceTicks.toNat + 1 ≤ ins.length → (final (ins.length + 1) s).hub.btn b = ⟨x, x, 0⟩)

/-- The alternation law of 43_debounce.md section 4, first half, which the spec derives: over every run, the events of a button
alternate and tell its confirmed state (a reset of the hub makes it released, decision D20). -/
def Obligations.ButtonEventsAlternate : Prop :=
  ∀ (b : Button) (k : Nat) (s : State),
    (trace k s).foldl (pressedAfter b) (some (s.hub.btn b).currentPressed)
      = some ((final k s).hub.btn b).currentPressed

/-- The alternation law of 43_debounce.md section 4, second half, which the spec derives: a press is emitted only by a poll and is
followed in the same step by its one command frame; no other top-level step of the hub transmits. -/
def Obligations.PressIsFollowedByItsCommand : Prop :=
  ∀ (i : Instr) (s t : State), exec i s = .next t →
    (∀ b, .press b ∈ t.outputs → i = .btnPoll b ∧ t.outputs = [.press b, .tx (encCmd s.cfg (buttonCommand b))])
    ∧ (∀ f, level i = .top → owner i = some .hub → .tx f ∈ t.outputs →
        ∃ b, i = .btnPoll b ∧ f = encCmd s.cfg (buttonCommand b) ∧ .press b ∈ t.outputs)

/-! ### The hub bridge -/

/-- 44_hub_bridge.md section 1: a data frame overwrites the whole cache; a console text only where `DATA_TEXT` has a format (the
spec's decision D27; the format as a number is the model's, log 13). -/
def Obligations.DataIsRecorded : Prop :=
  ∀ (v : AdcValue) (s : State),
    (s.cfg.dataText = none → exec (.hubData v) s = .next { s with
      hub := { s.hub with cache := ⟨v, true, s.inputs.now⟩ }, outputs := [], result := some (.data v) })
    ∧ (∀ format, s.cfg.dataText = some format → exec (.hubData v) s = .next { s with
      hub := { s.hub with cache := ⟨v, true, s.inputs.now⟩ }
      outputs := [.text (Config.renderData format v)], result := some (.data v) })

/-- 44_hub_bridge.md section 1: one text per acknowledge (the spec's decision D27); StopOk alone clears the valid flag and keeps
value and stamp; Error, on the same identifier, does not. -/
def Obligations.AcknowledgesAreReported : Prop :=
  ∀ s : State,
    exec (.hubAck .startOk) s = .next { s with
      outputs := [.text s.cfg.textStartOk], result := some (.acked .startOk) }
    ∧ exec (.hubAck .stopOk) s = .next { s with
      hub := { s.hub with cache := { s.hub.cache with validFlag := false } }
      outputs := [.text s.cfg.textStopOk], result := some (.acked .stopOk) }
    ∧ exec (.hubAck .error) s = .next { s with
      outputs := [.text s.cfg.textError], result := some (.acked .error) }

/-- 44_hub_bridge.md section 1: receiving exactly when the cache is valid and its stamp is strictly less than the window before
`now` (the spec's decision D25), for a time not below the stamp; where it is below, some answer (U4, log 11). Nothing is
written. Under the premise of 10_state.md section 6 that time does not decrease (log 20), every step of a run (an empty bench,
log 5) keeps the premise, and every query in it answers by that comparison. -/
def Obligations.QueryAnswersFreshness : Prop :=
  (∀ s : State,
    (s.hub.cache.validFlag = false →
      exec .hubQuery s = .next { s with outputs := [], result := some (.receiving false) })
    ∧ (s.hub.cache.validFlag = true → s.hub.cache.lastReceivedTimestamp ≤ s.inputs.now →
      ∃ b : Bool, exec .hubQuery s = .next { s with outputs := [], result := some (.receiving b) }
        ∧ (b = true ↔ s.inputs.now < s.hub.cache.lastReceivedTimestamp + s.cfg.freshnessWindowMs.toNat))
    ∧ (∃ b : Bool, exec .hubQuery s = .next { s with outputs := [], result := some (.receiving b) }))
    ∧ (∀ s t : State, s.InRun → s.TimeNonDecreasing → step s = .next t →
      t.InRun ∧ t.TimeNonDecreasing
      ∧ (s.current = some .hubQuery → ∃ b : Bool, t.result = some (.receiving b)
        ∧ (b = true ↔ s.hub.cache.validFlag = true
            ∧ t.inputs.now < s.hub.cache.lastReceivedTimestamp + s.cfg.freshnessWindowMs.toNat)))

/-- The hub's drain (44_hub_bridge.md section 1; one frame a pass is the spec's decision D12) dispatches the oldest frame on its
identifier; what does not decode is dropped without a text. -/
def Obligations.HubDrainTable : Prop :=
  ∀ s : State,
    (s.hub.q.count.val = 0 → exec .hubDrain s = .next { s with outputs := [], result := some .empty })
    ∧ (∀ (f : Frame) (q : Queue), s.hub.q.deq = some (f, q) →
      (∀ v, decAdc s.cfg f = .ok v → ∃ t, exec .hubDrain s = .next t
        ∧ exec (.hubData v) { s with hub := { s.hub with q := q } } = .next t)
      ∧ (s.cfg.WellFormed → ∀ a, decAck s.cfg f = .ok a → ∃ t, exec .hubDrain s = .next t
        ∧ exec (.hubAck a) { s with hub := { s.hub with q := q } } = .next t)
      ∧ (decAdc s.cfg f = .error .malformedFrame → decAck s.cfg f = .error .malformedFrame →
        exec .hubDrain s = .next { s with
          hub := { s.hub with q := q }, outputs := [], result := some .discarded }))

/-- Laws (a), (b) of 44_hub_bridge.md section 2, which the spec derives: over every run without a reset of the hub, the cache is
what the data frames and the StopOks processed make it: the last value with the time it was processed, valid unless a StopOk
came after. -/
def Obligations.CacheIsItsHistory : Prop :=
  ∀ (k : Nat) (s : State), (∀ p ∈ trace k s, resets .hub p = false) →
    (trace k s).foldl cacheAfter s.hub.cache = (final k s).hub.cache

/-- Law (d) of 44_hub_bridge.md section 2, which the spec derives: a processed acknowledge yields exactly its one text and a
discarded frame nothing, in every operation. -/
def Obligations.OneTextPerAcknowledge : Prop :=
  ∀ (i : Instr) (s t : State), exec i s = .next t →
    (∀ a, t.result = some (.acked a) → t.outputs = [.text (ackText s.cfg a)])
    ∧ (t.result = some .discarded → t.outputs = [])

/-! ### The whole machine -/

/-- 60_exceptions.md section 5, which the spec derives: every instruction completes in every state. That each leaves a result is
the model's: HUB.EDGE and RESET return nothing in the spec, and the model records `edgeDone` and `resetDone` (log 7). The
configuration stays, and so do the model's own fields: the environment's moves (log 1), the bench (log 5), the inputs (log 6) and
the index of the free values (log 8). -/
def Obligations.EveryInstructionCompletes : Prop :=
  ∀ (i : Instr) (s : State), ∃ t, exec i s = .next t ∧ t.result ≠ none ∧ t.cfg = s.cfg ∧ t.agenda = s.agenda
    ∧ t.bench = s.bench ∧ t.inputs = s.inputs ∧ t.draws = s.draws

/-- In a run, a step runs the environment's next move, a top-level operation, on the state in which the move has left the agenda,
its inputs stand at the ports and the free values are new; with no move the machine waits. What stands on the bench runs first,
whatever its level, in the same way; a frame no decoder accepts is dropped there. The agenda is the model's (log 1), the bench
and its dropped frame too (log 5, 22). -/
def Obligations.StepRunsTheDecodedInstruction : Prop :=
  ∀ s : State, s.cfg.WellFormed →
    (s.InRun → s.agenda = [] → step s = .next { s with outputs := [], result := none })
    ∧ (∀ (e : Event) (rest : List Event) (i : Instr), s.InRun → s.agenda = e :: rest → decode s.cfg e.word = .ok i →
      level i = .top → step s = exec i { s with agenda := rest, inputs := e.inputs, draws := s.draws + 1 })
    ∧ (∀ e : Event, s.bench = some e →
      (∀ i, decode s.cfg e.word = .ok i →
        step s = exec i { s with bench := none, inputs := e.inputs, draws := s.draws + 1 })
      ∧ (decode s.cfg e.word = .error .malformedFrame → step s = .next { s with
        bench := none, inputs := e.inputs, draws := s.draws + 1, outputs := [], result := some .discarded }))

/-- A well-formed instruction placed on the bench in its encoding is what the next step runs (the bench is the model's, log 5). -/
def Obligations.PlacedInstructionRunsNext : Prop :=
  ∀ (i : Instr) (s : State), s.cfg.WellFormed → i.wf s.cfg = true →
    step (s.placeEvent (encode s.cfg i)) = exec i { s with bench := none, draws := s.draws + 1 }

/-- 60_exceptions.md section 5, which the spec derives: no step faults; what is refused is an ill-formed configuration, a word
that is no operation and no frame, and a move that is no top-level operation, a second producer or consumer of a queue among them;
so in a run every step runs a top-level operation or waits, and the run goes on. Where the refusals stand is the model's (log 5,
15, 16). -/
def Obligations.StepRefusesOnlyOutsideTheRules : Prop :=
  ∀ s : State, (∀ r, step s ≠ .fault r)
    ∧ (step s = .refused .illFormedConfiguration ↔ ¬ s.cfg.WellFormed)
    ∧ (∀ i, step s = .refused (.notTopLevel i) ↔ s.cfg.WellFormed ∧ s.InRun
        ∧ ∃ e rest, s.agenda = e :: rest ∧ decode s.cfg e.word = .ok i ∧ level i = .sub)
    ∧ (∀ r, step s = .refused (.undecodable r) ↔ s.cfg.WellFormed
        ∧ ((s.InRun ∧ ∃ e rest, s.agenda = e :: rest ∧ decode s.cfg e.word = .error r)
          ∨ ∃ e, s.bench = some e ∧ decode s.cfg e.word = .error r ∧ r ≠ .malformedFrame))
    ∧ (s.InRun → ∀ t, step s = .next t → t.InRun ∧ ∀ i, s.current = some i → level i = .top)
    ∧ (s.cfg.WellFormed → s.InRun →
        (∀ e ∈ s.agenda, ∃ i, decode s.cfg e.word = .ok i ∧ level i = .top) → ∃ t, step s = .next t)

/-- 10_state.md section 6: no step writes the configuration, through any run. That it is a field of the state is the model's
(log 2). -/
def Obligations.ConfigurationIsNeverWritten : Prop :=
  ∀ (k : Nat) (s : State), (final k s).cfg = s.cfg ∧ ∀ p ∈ trace k s, p.1.cfg = s.cfg ∧ p.2.cfg = s.cfg

/-- 10_state.md section 1 and 60_exceptions.md section 4 (the spec's decision D30): an instruction leaves the record of the other
node as it was, and a codec operation both. -/
def Obligations.NodesShareNothing : Prop :=
  ∀ (i : Instr) (s t : State), exec i s = .next t →
    (owner i ≠ some .sampler → t.smp = s.smp) ∧ (owner i ≠ some .hub → t.hub = s.hub)

/-- 10_state.md section 1, 40_codec.md section 1: what an instruction does at its node does not depend on the other node: two
states that agree on the configuration, the inputs, the free values and the owner's record give the same outputs, result and
record. A codec operation depends on the configuration alone. -/
def Obligations.NodesDoNotInterfere : Prop :=
  ∀ (i : Instr) (s₁ s₂ t₁ t₂ : State), exec i s₁ = .next t₁ → exec i s₂ = .next t₂ → s₁.cfg = s₂.cfg →
    (owner i = some .sampler → s₁.inputs = s₂.inputs → s₁.draws = s₂.draws → s₁.smp = s₂.smp →
      t₁.outputs = t₂.outputs ∧ t₁.result = t₂.result ∧ t₁.smp = t₂.smp)
    ∧ (owner i = some .hub → s₁.inputs = s₂.inputs → s₁.draws = s₂.draws → s₁.hub = s₂.hub →
      t₁.outputs = t₂.outputs ∧ t₁.result = t₂.result ∧ t₁.hub = t₂.hub)
    ∧ (owner i = none → t₁.outputs = t₂.outputs ∧ t₁.result = t₂.result)

/-- 60_exceptions.md section 3, 70_reset_and_hazards.md section 3: what an interrupt's step may touch. A reception, only its own
queue: on a full queue nothing; with room the slot at the head takes the frame, every other slot reads as before, head and count
advance, the tail stays. The edge, nothing. The tick, only the sample counter (90_conflicts.md C3), by at most one. -/
def Obligations.InterruptsKeepToTheirState : Prop :=
  ∀ (i : Instr) (s t : State), context i = some .interrupt → exec i s = .next t →
    (∀ (n : Node) (f : Frame), i = reception f n → ∃ q : Queue,
      t.smp = (s.setQueue n q).smp ∧ t.hub = (s.setQueue n q).hub
      ∧ (∀ k : Fin 8, k ≠ (s.queue n).head → q.memRead k = (s.queue n).memRead k)
      ∧ q.tail = (s.queue n).tail
      ∧ ((s.queue n).count.val = 8 → q = s.queue n)
      ∧ ((s.queue n).count.val < 8 → q.memRead (s.queue n).head = f
        ∧ q.head.val = ((s.queue n).head.val + 1) % 8 ∧ q.count.val = (s.queue n).count.val + 1))
    ∧ (i = .hubEdge → t.smp = s.smp ∧ t.hub = s.hub)
    ∧ (i = .smpTick → t.hub = s.hub ∧ (t.smp = s.smp
      ∨ t.smp = { s.smp with sampleCounter := s.smp.sampleCounter + 1 }))
    ∧ ((∃ n f, i = reception f n) ∨ i = .hubEdge ∨ i = .smpTick)

/-- 70_reset_and_hazards.md section 1 (the spec's decisions D10, D17, D20, D26, D39): `RESET` puts one node into its initial state
with no output; slots, cache value and stamp are then some values; the other node and the configuration stay. -/
def Obligations.ResetInitialisesOneNode : Prop :=
  ∀ s : State,
    (∃ slots : Vector Frame 8, exec (.reset .sampler) s = .next { s with
      smp := ⟨⟨slots, 0, 0, 0⟩, .idle, 0⟩, outputs := [], result := some (.resetDone .sampler) })
    ∧ (∃ (slots : Vector Frame 8) (value : AdcValue) (stamp : Nat), exec (.reset .hub) s = .next { s with
      hub := ⟨⟨slots, 0, 0, 0⟩, ⟨false, false, 0⟩, ⟨false, false, 0⟩, ⟨value, false, stamp⟩⟩
      outputs := [], result := some (.resetDone .hub) })

/-- The machine's invariant holds right after reset, under every well-formed configuration, the spec's reference configuration (D5,
log 2) among them. Nothing in it rests on the slots, the cache's value or stamp the model names (log 9, 10). -/
def Obligations.ResetMeetsTheInvariant : Prop :=
  (∀ c : Config, c.WellFormed → (State.powerOn c).Inv) ∧ State.reset.Inv

/-- 00_scope.md section 4, 10_state.md sections 2, 6 and 7, 42_sampler.md section 5, 43_debounce.md section 4: every step keeps the
machine's invariant, from every state that has it. That the sampler is never in Error is a part of it and rests on the spec's
decision D16 (log 17). -/
def Obligations.StepKeepsTheInvariant : Prop :=
  ∀ s t : State, s.Inv → step s = .next t → t.Inv

/-- 10_state.md sections 2 and 5, 93_implementation_defined.md section 1: what is unspecified after reset cannot be observed: two
states that differ only in dead slots, and in the cache's value and stamp while it is invalid, show the same outputs and
results in every run. So no run depends on the values the model names for them at reset (log 9, 10). -/
def Obligations.UnspecifiedContentsAreUnobservable : Prop :=
  ∀ (k : Nat) (s₁ s₂ : State), s₁.Same s₂ →
    observe k s₁ = observe k s₂ ∧ (final k s₁).Same (final k s₂)
end

