-- ==== Sys2Proof/Laws/Codec.lean ====
section
/-! SUPPORT. Small lemmas about slices of a word, digit bytes, identifiers, verdicts by identifier and operation words. -/

namespace Sys2Proof

/-! ### Slices -/

/-- The low slice of a concatenation is its right part. -/
theorem extract_append_low {m n : Nat} (x : BitVec m) (y : BitVec n) : (x ++ y).extractLsb' 0 n = y := by
  apply BitVec.eq_of_getLsbD_eq
  intro i hi
  simp [BitVec.getLsbD_append, hi]

/-- A slice above the right part of a concatenation is a slice of its left part. -/
theorem extract_append_high {m n : Nat} (x : BitVec m) (y : BitVec n) (p k l : Nat) (h : p = n + k) :
    (x ++ y).extractLsb' p l = x.extractLsb' k l := by
  subst h
  apply BitVec.eq_of_getLsbD_eq
  intro i hi
  have : ¬ n + k + i < n := by omega
  simp only [BitVec.getLsbD_extractLsb', BitVec.getLsbD_append, hi, decide_true, Bool.true_and, this, if_false]
  congr 1
  omega

/-- Two neighbouring slices joined are one slice. -/
theorem extract_append_extract {m n k : Nat} (w : BitVec k) (p : Nat) :
    w.extractLsb' (p + n) m ++ w.extractLsb' p n = w.extractLsb' p (m + n) := by
  apply BitVec.eq_of_getLsbD_eq
  intro i hi
  simp only [BitVec.getLsbD_append, BitVec.getLsbD_extractLsb', hi, decide_true, Bool.true_and]
  split
  · simp [*]
  · have : i - n < m := by omega
    simp only [this, decide_true, Bool.true_and]
    congr 1
    omega

/-! ### Digit bytes -/

/-- The number a digit byte holds (R94). -/
theorem digitByte_toNat (c : Config) (hc : c.DigitBaseFits) (v k : Nat) :
    (c.digitByte v k).toNat = c.digitBase.toNat + v / 10 ^ k % 10 := by
  have : v / 10 ^ k % 10 < 10 := Nat.mod_lt _ (by decide)
  unfold Config.digitByte
  rw [BitVec.toNat_add, BitVec.toNat_ofNat]
  unfold Config.DigitBaseFits at hc
  omega

/-- Exactly the digit bytes carry a digit (R96). -/
theorem digitOf_eq_some (c : Config) (b : Byte) (d : Nat) :
    c.digitOf b = some d ↔
      (c.digitBase.toNat ≤ b.toNat ∧ b.toNat ≤ c.digitBase.toNat + 9) ∧ d = b.toNat - c.digitBase.toNat := by
  unfold Config.digitOf
  split <;> simp <;> omega

/-! ### Verdicts by identifier -/

/-- The ten disequalities of R8 item 2. -/
theorem ids_distinct (c : Config) (h : c.IdsDistinct) :
    c.idCmdStart ≠ c.idCmdStop ∧ c.idCmdStart ≠ c.idAdcData ∧ c.idCmdStart ≠ c.idAckStart ∧ c.idCmdStart ≠ c.idAckStop
      ∧ c.idCmdStop ≠ c.idAdcData ∧ c.idCmdStop ≠ c.idAckStart ∧ c.idCmdStop ≠ c.idAckStop ∧ c.idAdcData ≠ c.idAckStart
      ∧ c.idAdcData ≠ c.idAckStop ∧ c.idAckStart ≠ c.idAckStop := by
  simp only [Config.IdsDistinct, List.nodup_cons, List.mem_cons, List.not_mem_nil, or_false, not_or] at h
  tauto

/-- A frame on no command identifier is no command (R134). -/
theorem decCmd_of_id (c : Config) (f : Frame) (h : f.id ≠ c.idCmdStart) (h' : f.id ≠ c.idCmdStop) :
    decCmd c f = .error .malformedFrame := if_pos ⟨h, h'⟩

/-- A frame not on the data identifier is no data frame (R135). -/
theorem decAdc_of_id (c : Config) (f : Frame) (h : f.id ≠ c.idAdcData) : decAdc c f = .error .malformedFrame := if_pos h

/-- A frame on no acknowledge identifier is no acknowledge (R136). -/
theorem decAck_of_id (c : Config) (f : Frame) (h : f.id ≠ c.idAckStart) (h' : f.id ≠ c.idAckStop) :
    decAck c f = .error .malformedFrame := by
  unfold decAck
  rw [if_neg h, if_neg h']

/-! ### Operation words -/

/-- An operation word decodes by its code and its operand bits. -/
theorem decodeOp_code (k o : Nat) (h : k < 256) : decodeOp (k + 256 * o) = decodeCode k o := by
  have e : (k + 256 * o) % 256 = k ∧ (k + 256 * o) / 256 = o := by omega
  unfold decodeOp
  rw [e.1, e.2]

end Sys2Proof
end

