-- ==== Sys2Proof/Laws/State.lean ====
section
/-! SUPPORT. The small lemmas of the state: one per field per update, so that no proof unfolds a record update. -/

namespace Sys2Proof.Machine

open Sys2Proof

@[simp] theorem State.begin_cfg (s : State) : (s.begin).cfg = s.cfg := rfl
@[simp] theorem State.begin_smp (s : State) : (s.begin).smp = s.smp := rfl
@[simp] theorem State.begin_hub (s : State) : (s.begin).hub = s.hub := rfl
@[simp] theorem State.begin_agenda (s : State) : (s.begin).agenda = s.agenda := rfl
@[simp] theorem State.begin_bench (s : State) : (s.begin).bench = s.bench := rfl
@[simp] theorem State.begin_inputs (s : State) : (s.begin).inputs = s.inputs := rfl
@[simp] theorem State.begin_outputs (s : State) : (s.begin).outputs = [] := rfl
@[simp] theorem State.begin_result (s : State) : (s.begin).result = none := rfl
@[simp] theorem State.begin_draws (s : State) : (s.begin).draws = s.draws := rfl

@[simp] theorem State.emit_cfg (s : State) (o : Output) : (s.emit o).cfg = s.cfg := rfl
@[simp] theorem State.emit_smp (s : State) (o : Output) : (s.emit o).smp = s.smp := rfl
@[simp] theorem State.emit_hub (s : State) (o : Output) : (s.emit o).hub = s.hub := rfl
@[simp] theorem State.emit_agenda (s : State) (o : Output) : (s.emit o).agenda = s.agenda := rfl
@[simp] theorem State.emit_bench (s : State) (o : Output) : (s.emit o).bench = s.bench := rfl
@[simp] theorem State.emit_inputs (s : State) (o : Output) : (s.emit o).inputs = s.inputs := rfl
@[simp] theorem State.emit_outputs (s : State) (o : Output) : (s.emit o).outputs = s.outputs ++ [o] := rfl
@[simp] theorem State.emit_result (s : State) (o : Output) : (s.emit o).result = s.result := rfl
@[simp] theorem State.emit_draws (s : State) (o : Output) : (s.emit o).draws = s.draws := rfl

@[simp] theorem State.ret_cfg (s : State) (r : Result) : (s.ret r).cfg = s.cfg := rfl
@[simp] theorem State.ret_smp (s : State) (r : Result) : (s.ret r).smp = s.smp := rfl
@[simp] theorem State.ret_hub (s : State) (r : Result) : (s.ret r).hub = s.hub := rfl
@[simp] theorem State.ret_agenda (s : State) (r : Result) : (s.ret r).agenda = s.agenda := rfl
@[simp] theorem State.ret_bench (s : State) (r : Result) : (s.ret r).bench = s.bench := rfl
@[simp] theorem State.ret_inputs (s : State) (r : Result) : (s.ret r).inputs = s.inputs := rfl
@[simp] theorem State.ret_outputs (s : State) (r : Result) : (s.ret r).outputs = s.outputs := rfl
@[simp] theorem State.ret_result (s : State) (r : Result) : (s.ret r).result = some r := rfl
@[simp] theorem State.ret_draws (s : State) (r : Result) : (s.ret r).draws = s.draws := rfl

@[simp] theorem State.raise_cfg (s : State) (e : BlockError) : (s.raise e).cfg = s.cfg := rfl
@[simp] theorem State.raise_smp (s : State) (e : BlockError) : (s.raise e).smp = s.smp := rfl
@[simp] theorem State.raise_hub (s : State) (e : BlockError) : (s.raise e).hub = s.hub := rfl
@[simp] theorem State.raise_agenda (s : State) (e : BlockError) : (s.raise e).agenda = s.agenda := rfl
@[simp] theorem State.raise_bench (s : State) (e : BlockError) : (s.raise e).bench = s.bench := rfl
@[simp] theorem State.raise_inputs (s : State) (e : BlockError) : (s.raise e).inputs = s.inputs := rfl
@[simp] theorem State.raise_outputs (s : State) (e : BlockError) : (s.raise e).outputs = s.outputs := rfl
@[simp] theorem State.raise_result (s : State) (e : BlockError) : (s.raise e).result = some (.err e) := rfl
@[simp] theorem State.raise_draws (s : State) (e : BlockError) : (s.raise e).draws = s.draws := rfl

@[simp] theorem State.transmit_cfg (s : State) (f : Frame) : (s.transmit f).cfg = s.cfg := rfl
@[simp] theorem State.transmit_smp (s : State) (f : Frame) : (s.transmit f).smp = s.smp := rfl
@[simp] theorem State.transmit_hub (s : State) (f : Frame) : (s.transmit f).hub = s.hub := rfl
@[simp] theorem State.transmit_agenda (s : State) (f : Frame) : (s.transmit f).agenda = s.agenda := rfl
@[simp] theorem State.transmit_bench (s : State) (f : Frame) : (s.transmit f).bench = s.bench := rfl
@[simp] theorem State.transmit_inputs (s : State) (f : Frame) : (s.transmit f).inputs = s.inputs := rfl
@[simp] theorem State.transmit_outputs (s : State) (f : Frame) : (s.transmit f).outputs = s.outputs ++ [.tx f] := rfl
@[simp] theorem State.transmit_result (s : State) (f : Frame) : (s.transmit f).result = s.result := rfl
@[simp] theorem State.transmit_draws (s : State) (f : Frame) : (s.transmit f).draws = s.draws := rfl

@[simp] theorem State.setMode_cfg (s : State) (m : SamplerMode) : (s.setMode m).cfg = s.cfg := rfl
@[simp] theorem State.setMode_smp (s : State) (m : SamplerMode) : (s.setMode m).smp = { s.smp with mode := m } := rfl
@[simp] theorem State.setMode_hub (s : State) (m : SamplerMode) : (s.setMode m).hub = s.hub := rfl
@[simp] theorem State.setMode_agenda (s : State) (m : SamplerMode) : (s.setMode m).agenda = s.agenda := rfl
@[simp] theorem State.setMode_bench (s : State) (m : SamplerMode) : (s.setMode m).bench = s.bench := rfl
@[simp] theorem State.setMode_inputs (s : State) (m : SamplerMode) : (s.setMode m).inputs = s.inputs := rfl
@[simp] theorem State.setMode_outputs (s : State) (m : SamplerMode) : (s.setMode m).outputs = s.outputs := rfl
@[simp] theorem State.setMode_result (s : State) (m : SamplerMode) : (s.setMode m).result = s.result := rfl
@[simp] theorem State.setMode_draws (s : State) (m : SamplerMode) : (s.setMode m).draws = s.draws := rfl

@[simp] theorem State.countSample_cfg (s : State) : (s.countSample).cfg = s.cfg := rfl
@[simp] theorem State.countSample_smp (s : State) : (s.countSample).smp = { s.smp with sampleCounter := s.smp.sampleCounter + 1 } := rfl
@[simp] theorem State.countSample_hub (s : State) : (s.countSample).hub = s.hub := rfl
@[simp] theorem State.countSample_agenda (s : State) : (s.countSample).agenda = s.agenda := rfl
@[simp] theorem State.countSample_bench (s : State) : (s.countSample).bench = s.bench := rfl
@[simp] theorem State.countSample_inputs (s : State) : (s.countSample).inputs = s.inputs := rfl
@[simp] theorem State.countSample_outputs (s : State) : (s.countSample).outputs = s.outputs := rfl
@[simp] theorem State.countSample_result (s : State) : (s.countSample).result = s.result := rfl
@[simp] theorem State.countSample_draws (s : State) : (s.countSample).draws = s.draws := rfl

@[simp] theorem State.invalidate_cfg (s : State) : (s.invalidate).cfg = s.cfg := rfl
@[simp] theorem State.invalidate_smp (s : State) : (s.invalidate).smp = s.smp := rfl
@[simp] theorem State.invalidate_hub (s : State) : (s.invalidate).hub = { s.hub with cache := { s.hub.cache with validFlag := false } } := rfl
@[simp] theorem State.invalidate_agenda (s : State) : (s.invalidate).agenda = s.agenda := rfl
@[simp] theorem State.invalidate_bench (s : State) : (s.invalidate).bench = s.bench := rfl
@[simp] theorem State.invalidate_inputs (s : State) : (s.invalidate).inputs = s.inputs := rfl
@[simp] theorem State.invalidate_outputs (s : State) : (s.invalidate).outputs = s.outputs := rfl
@[simp] theorem State.invalidate_result (s : State) : (s.invalidate).result = s.result := rfl
@[simp] theorem State.invalidate_draws (s : State) : (s.invalidate).draws = s.draws := rfl

@[simp] theorem State.load_cfg (s : State) (e : Event) (rest : List Event) : (s.load e rest).cfg = s.cfg := rfl
@[simp] theorem State.load_smp (s : State) (e : Event) (rest : List Event) : (s.load e rest).smp = s.smp := rfl
@[simp] theorem State.load_hub (s : State) (e : Event) (rest : List Event) : (s.load e rest).hub = s.hub := rfl
@[simp] theorem State.load_agenda (s : State) (e : Event) (rest : List Event) : (s.load e rest).agenda = rest := rfl
@[simp] theorem State.load_bench (s : State) (e : Event) (rest : List Event) : (s.load e rest).bench = none := rfl
@[simp] theorem State.load_inputs (s : State) (e : Event) (rest : List Event) : (s.load e rest).inputs = e.inputs := rfl
@[simp] theorem State.load_outputs (s : State) (e : Event) (rest : List Event) : (s.load e rest).outputs = s.outputs := rfl
@[simp] theorem State.load_result (s : State) (e : Event) (rest : List Event) : (s.load e rest).result = s.result := rfl
@[simp] theorem State.load_draws (s : State) (e : Event) (rest : List Event) : (s.load e rest).draws = s.draws + 1 := rfl

@[simp] theorem State.placeEvent_cfg (s : State) (w : EventWord) : (s.placeEvent w).cfg = s.cfg := rfl
@[simp] theorem State.placeEvent_smp (s : State) (w : EventWord) : (s.placeEvent w).smp = s.smp := rfl
@[simp] theorem State.placeEvent_hub (s : State) (w : EventWord) : (s.placeEvent w).hub = s.hub := rfl
@[simp] theorem State.placeEvent_agenda (s : State) (w : EventWord) : (s.placeEvent w).agenda = s.agenda := rfl
@[simp] theorem State.placeEvent_bench (s : State) (w : EventWord) : (s.placeEvent w).bench = some ⟨w, s.inputs⟩ := rfl
@[simp] theorem State.placeEvent_inputs (s : State) (w : EventWord) : (s.placeEvent w).inputs = s.inputs := rfl
@[simp] theorem State.placeEvent_outputs (s : State) (w : EventWord) : (s.placeEvent w).outputs = s.outputs := rfl
@[simp] theorem State.placeEvent_result (s : State) (w : EventWord) : (s.placeEvent w).result = s.result := rfl
@[simp] theorem State.placeEvent_draws (s : State) (w : EventWord) : (s.placeEvent w).draws = s.draws := rfl

@[simp] theorem State.setQueue_sampler_smp (s : State) (q : Queue) : (s.setQueue .sampler q).smp = { s.smp with q := q } := rfl
@[simp] theorem State.setQueue_sampler_hub (s : State) (q : Queue) : (s.setQueue .sampler q).hub = s.hub := rfl

@[simp] theorem State.setQueue_hub_smp (s : State) (q : Queue) : (s.setQueue .hub q).smp = s.smp := rfl
@[simp] theorem State.setQueue_hub_hub (s : State) (q : Queue) : (s.setQueue .hub q).hub = { s.hub with q := q } := rfl

@[simp] theorem State.setQueue_cfg (s : State) (n : Node) (q : Queue) : (s.setQueue n q).cfg = s.cfg := by
  cases n <;> rfl
@[simp] theorem State.setQueue_agenda (s : State) (n : Node) (q : Queue) : (s.setQueue n q).agenda = s.agenda := by
  cases n <;> rfl
@[simp] theorem State.setQueue_bench (s : State) (n : Node) (q : Queue) : (s.setQueue n q).bench = s.bench := by
  cases n <;> rfl
@[simp] theorem State.setQueue_inputs (s : State) (n : Node) (q : Queue) : (s.setQueue n q).inputs = s.inputs := by
  cases n <;> rfl
@[simp] theorem State.setQueue_outputs (s : State) (n : Node) (q : Queue) : (s.setQueue n q).outputs = s.outputs := by
  cases n <;> rfl
@[simp] theorem State.setQueue_result (s : State) (n : Node) (q : Queue) : (s.setQueue n q).result = s.result := by
  cases n <;> rfl
@[simp] theorem State.setQueue_draws (s : State) (n : Node) (q : Queue) : (s.setQueue n q).draws = s.draws := by
  cases n <;> rfl

@[simp] theorem State.queue_sampler (s : State) : s.queue .sampler = s.smp.q := rfl
@[simp] theorem State.queue_hub (s : State) : s.queue .hub = s.hub.q := rfl
@[simp] theorem State.queue_begin (s : State) (n : Node) : s.begin.queue n = s.queue n := by cases n <;> rfl
@[simp] theorem State.queue_load (s : State) (e : Event) (rest : List Event) (n : Node) :
    (s.load e rest).queue n = s.queue n := by cases n <;> rfl
@[simp] theorem State.queue_ret (s : State) (r : Result) (n : Node) : (s.ret r).queue n = s.queue n := by cases n <;> rfl
@[simp] theorem State.queue_setQueue_same (s : State) (n : Node) (q : Queue) : (s.setQueue n q).queue n = q := by
  cases n <;> rfl
theorem State.queue_setQueue_other (s : State) (m n : Node) (q : Queue) (h : m ≠ n) :
    (s.setQueue n q).queue m = s.queue m := by
  cases m <;> cases n <;> first | exact absurd rfl h | rfl

@[simp] theorem Hub.btn_one (h : Hub) : h.btn .one = h.btn1 := rfl
@[simp] theorem Hub.btn_two (h : Hub) : h.btn .two = h.btn2 := rfl
@[simp] theorem Hub.setBtn_q (h : Hub) (b : Button) (x : ButtonState) : (h.setBtn b x).q = h.q := by cases b <;> rfl
@[simp] theorem Hub.setBtn_cache (h : Hub) (b : Button) (x : ButtonState) : (h.setBtn b x).cache = h.cache := by
  cases b <;> rfl
@[simp] theorem Hub.btn_setBtn_same (h : Hub) (b : Button) (x : ButtonState) : (h.setBtn b x).btn b = x := by
  cases b <;> rfl
theorem Hub.btn_setBtn_other (h : Hub) (a b : Button) (x : ButtonState) (hne : a ≠ b) :
    (h.setBtn b x).btn a = h.btn a := by
  cases a <;> cases b <;> first | exact absurd rfl hne | rfl

@[simp] theorem State.powerOn_cfg (c : Config) : (State.powerOn c).cfg = c := rfl
@[simp] theorem State.powerOn_smp (c : Config) : (State.powerOn c).smp = Sampler.atReset slotsAtReset := rfl
@[simp] theorem State.powerOn_hub (c : Config) : (State.powerOn c).hub = Hub.atReset slotsAtReset 0 0 := rfl
@[simp] theorem State.powerOn_agenda (c : Config) : (State.powerOn c).agenda = [] := rfl
@[simp] theorem State.powerOn_bench (c : Config) : (State.powerOn c).bench = none := rfl

end Sys2Proof.Machine
end

