-- ==== Sys2Proof/Laws/Ops.lean ====
section
/-! SUPPORT. One lemma for each shared operation that says once everything it can do. -/

namespace Sys2Proof.Machine

open Sys2Proof

/-! ### The queue -/

@[simp] theorem Queue.memRead_memWrite_same (q : Queue) (i : Fin 8) (f : Frame) : (q.memWrite i f).memRead i = f := by
  simp [Queue.memRead, Queue.memWrite]

theorem Queue.memRead_memWrite_other (q : Queue) (i k : Fin 8) (f : Frame) (h : k ≠ i) :
    (q.memWrite i f).memRead k = q.memRead k := by
  have : i.val ≠ k.val := fun e => h (Fin.ext e.symm)
  simp [Queue.memRead, Queue.memWrite, this]

@[simp] theorem Queue.memWrite_head (q : Queue) (i : Fin 8) (f : Frame) : (q.memWrite i f).head = q.head := rfl
@[simp] theorem Queue.memWrite_tail (q : Queue) (i : Fin 8) (f : Frame) : (q.memWrite i f).tail = q.tail := rfl
@[simp] theorem Queue.memWrite_count (q : Queue) (i : Fin 8) (f : Frame) : (q.memWrite i f).count = q.count := rfl

/-- `ENQ` fails exactly on a full queue. -/
theorem Queue.enq_eq_none (q : Queue) (f : Frame) : q.enq f = none ↔ q.count.val = 8 := by
  simp [Queue.enq, Queue.isFull]

/-- What a successful `ENQ` leaves. -/
theorem Queue.enq_eq_some (q r : Queue) (f : Frame) :
    q.enq f = some r ↔ q.count.val < 8 ∧ r = { q.memWrite q.head f with head := q.head + 1, count := q.count + 1 } := by
  have := q.count.isLt
  unfold Queue.enq Queue.isFull
  split
  · rename_i h
    simp at h
    simp
    omega
  · rename_i h
    simp at h
    constructor
    · intro e
      exact ⟨by omega, (Option.some.inj e).symm⟩
    · rintro ⟨-, rfl⟩
      rfl

/-- `DEQ` fails exactly on an empty queue. -/
theorem Queue.deq_eq_none (q : Queue) : q.deq = none ↔ q.count.val = 0 := by
  simp [Queue.deq, Queue.isEmpty]

/-- What a successful `DEQ` answers and leaves. -/
theorem Queue.deq_eq_some (q r : Queue) (f : Frame) :
    q.deq = some (f, r) ↔
      0 < q.count.val ∧ f = q.memRead q.tail ∧ r = { q with tail := q.tail + 1, count := q.count - 1 } := by
  unfold Queue.deq Queue.isEmpty
  split
  · rename_i h
    simp at h
    simp [h]
  · rename_i h
    simp at h
    constructor
    · intro e
      simp only [Option.some.injEq, Prod.mk.injEq] at e
      exact ⟨Nat.pos_of_ne_zero fun z => h (Fin.ext z), e.1.symm, e.2.symm⟩
    · rintro ⟨-, rfl, rfl⟩
      rfl

theorem Fin8.val_succ (i : Fin 8) : (i + 1).val = (i.val + 1) % 8 := by
  rw [Fin.val_add]; rfl

theorem Fin9.val_succ (i : Fin 9) (h : i.val < 8) : (i + 1).val = i.val + 1 := by
  rw [Fin.val_add]
  exact Nat.mod_eq_of_lt (show i.val + 1 < 9 by omega)

theorem Fin9.val_pred (i : Fin 9) (h : 0 < i.val) : (i - 1).val + 1 = i.val := by
  have h9 := i.isLt
  rw [Fin.sub_def]
  simp only [Fin.val_one]
  omega

/-- `ENQ` keeps the ring (R27). -/
theorem Queue.Ring.enq {q r : Queue} {f : Frame} (hq : q.Ring) (h : q.enq f = some r) : r.Ring := by
  obtain ⟨hc, rfl⟩ := (Queue.enq_eq_some q r f).1 h
  simp only [Queue.Ring, Queue.memWrite_tail, Fin8.val_succ, Fin9.val_succ _ hc] at *
  omega

/-- `DEQ` keeps the ring (R27). -/
theorem Queue.Ring.deq {q r : Queue} {f : Frame} (hq : q.Ring) (h : q.deq = some (f, r)) : r.Ring := by
  obtain ⟨hc, -, rfl⟩ := (Queue.deq_eq_some q r f).1 h
  have := Fin9.val_pred _ hc
  simp only [Queue.Ring, Fin8.val_succ] at *
  omega

/-- A queue after reset is empty and a ring (R40). -/
theorem Queue.ring_ofSlots (v : Vector Frame 8) : (Queue.ofSlots v).Ring := by
  simp [Queue.Ring, Queue.ofSlots]

theorem Queue.contents_length (q : Queue) : q.contents.length = q.count.val := by simp [Queue.contents]

theorem Queue.contents_ofSlots (v : Vector Frame 8) : (Queue.ofSlots v).contents = [] := by
  simp [Queue.contents, Queue.ofSlots]

/-- `DEQ` answers the first live entry and leaves the others (R74, R161). -/
theorem Queue.contents_deq {q r : Queue} {f : Frame} (h : q.deq = some (f, r)) : q.contents = f :: r.contents := by
  obtain ⟨hc, rfl, rfl⟩ := (Queue.deq_eq_some q r f).1 h
  have hp := Fin9.val_pred _ hc
  unfold Queue.contents
  rw [← hp, List.range_succ_eq_map]
  simp only [List.map_cons, List.map_map]
  refine List.cons_eq_cons.2 ⟨?_, ?_⟩
  · simp [Queue.at]
  · refine List.map_congr_left fun k _ => ?_
    simp only [Function.comp, Queue.at, Queue.memRead]
    congr 1
    apply Fin.ext
    simp only [Fin.val_ofNat, Fin8.val_succ]
    omega

/-- `ENQ` puts the frame behind the live entries (R160). -/
theorem Queue.contents_enq {q r : Queue} {f : Frame} (hq : q.Ring) (h : q.enq f = some r) :
    r.contents = q.contents ++ [f] := by
  obtain ⟨hc, rfl⟩ := (Queue.enq_eq_some q r f).1 h
  unfold Queue.contents
  simp only [Fin9.val_succ _ hc, List.range_succ, List.map_append, List.map_cons, List.map_nil]
  congr 1
  · refine List.map_congr_left fun k hk => ?_
    have hk := List.mem_range.1 hk
    refine Queue.memRead_memWrite_other q q.head _ f fun e => ?_
    have e := congrArg Fin.val e
    simp only [Fin.val_ofNat, Queue.memWrite_tail, Queue.Ring] at e hq
    have := q.tail.isLt
    omega
  · have e : Fin.ofNat 8 (q.tail.val + q.count.val) = q.head := Fin.ext (by simpa [Queue.Ring] using hq.symm)
    simp only [Queue.at, Queue.memWrite_tail, e]
    exact congrArg (· :: []) (Queue.memRead_memWrite_same q q.head f)

/-! ### The handlers -/

/-- Everything `SMP.START`'s handler can do. -/
theorem startCommand_cases (s : State) :
    (s.smp.mode = .idle ∧ startCommand s = (((s.setMode .sampling).emit .arm).transmit (encAck s.cfg .startOk)).ret
        (.started s.inputs.tx))
    ∨ (s.smp.mode ≠ .idle ∧ startCommand s = s.ret .alreadyActive) := by
  unfold startCommand
  cases h : s.smp.mode <;> simp

/-- Everything `SMP.STOP`'s handler can do. -/
theorem stopCommand_cases (s : State) :
    (s.smp.mode = .sampling ∧ stopCommand s = (((s.setMode .idle).emit .disarm).transmit (encAck s.cfg .stopOk)).ret
        (.stopped s.inputs.tx))
    ∨ (s.smp.mode = .idle ∧ stopCommand s = (s.transmit (encAck s.cfg .stopOk)).ret (.stopped s.inputs.tx))
    ∨ (s.smp.mode = .error ∧ s.cfg.ackOnStopInError = none ∧ stopCommand s = s.ret .ignored)
    ∨ (∃ a, s.smp.mode = .error ∧ s.cfg.ackOnStopInError = some a
        ∧ stopCommand s = (s.transmit (encAck s.cfg a)).ret (.refusedStop s.inputs.tx)) := by
  unfold stopCommand
  cases h : s.smp.mode
  · simp
  · simp
  · cases h' : s.cfg.ackOnStopInError <;> simp

/-- Everything the sampler can do with a dequeued frame. -/
theorem samplerConsume_cases (f : Frame) (s : State) :
    (decCmd s.cfg f = .error .malformedFrame ∧ samplerConsume f s = discardFrame s)
    ∨ (decCmd s.cfg f = .ok .start ∧ samplerConsume f s = startCommand s)
    ∨ (decCmd s.cfg f = .ok .stop ∧ samplerConsume f s = stopCommand s)
    ∨ (∃ id tag, decCmd s.cfg f = .ok (.unrecognised id tag) ∧ samplerConsume f s = unknownCommand s) := by
  have he : ∀ e, decCmd s.cfg f = .error e → e = .malformedFrame := by
    intro e h
    unfold decCmd at h
    split at h
    · exact (Except.error.inj h).symm
    · split at h
      · cases h
      · split at h <;> cases h
  unfold samplerConsume
  cases h : decCmd s.cfg f with
  | error e => exact .inl ⟨by rw [he e h], rfl⟩
  | ok x => cases x <;> simp

/-- `ENC.ADC` succeeds exactly up to `ADC_MAX`, on the data identifier. -/
theorem encAdc_cases (c : Config) (v : Nat) :
    (c.adcMax < v ∧ encAdc c v = .error (.outOfRange v))
      ∨ (v ≤ c.adcMax ∧ encAdc c v = .ok ⟨c.idAdcData, 8, c.adcPayload v⟩) := by
  unfold encAdc
  by_cases h : c.adcMax < v
  · exact .inl ⟨h, if_pos h⟩
  · exact .inr ⟨by omega, if_neg h⟩

/-- Everything a tick can do. -/
theorem samplerTick_cases (s : State) :
    (s.smp.mode ≠ .sampling ∧ samplerTick s = s.ret .ignored)
    ∨ (∃ hw, s.smp.mode = .sampling ∧ s.inputs.analog = .err hw
        ∧ samplerTick s = (s.emit .readAnalog).ret (.skipped (.hwFailure hw)))
    ∨ (∃ raw, s.smp.mode = .sampling ∧ s.inputs.analog = .ok raw ∧ s.cfg.adcMax < raw
        ∧ samplerTick s = (s.emit .readAnalog).ret (.skipped (.outOfRange raw)))
    ∨ (∃ raw, s.smp.mode = .sampling ∧ s.inputs.analog = .ok raw ∧ raw ≤ s.cfg.adcMax
        ∧ samplerTick s = (((s.emit .readAnalog).transmit ⟨s.cfg.idAdcData, 8, s.cfg.adcPayload raw⟩).countSample).ret
            (.sampled raw s.inputs.tx)) := by
  unfold samplerTick
  cases hm : s.smp.mode
  · simp
  · cases ha : s.inputs.analog with
    | err hw => simp
    | ok raw =>
      rcases encAdc_cases s.cfg raw with ⟨h, e⟩ | ⟨h, e⟩
      · simp [e, h]
      · simp [e, h]
  · simp

/-- Everything an enqueue into a node's queue can do. -/
theorem enqueueAt_cases (n : Node) (f : Frame) (s : State) :
    ((s.queue n).enq f = none ∧ enqueueAt n f s = s.ret (.enqueued false))
    ∨ (∃ q, (s.queue n).enq f = some q ∧ enqueueAt n f s = (s.setQueue n q).ret (.enqueued true)) := by
  unfold enqueueAt
  cases h : (s.queue n).enq f <;> simp

/-- Everything a drain can do. -/
theorem drainWith_cases (n : Node) (consume : Frame → State → State) (s : State) :
    ((s.queue n).deq = none ∧ drainWith n consume s = s.ret .empty)
    ∨ (∃ f q, (s.queue n).deq = some (f, q) ∧ drainWith n consume s = consume f (s.setQueue n q)) := by
  unfold drainWith
  cases h : (s.queue n).deq with
  | none => simp
  | some p => exact .inr ⟨p.1, p.2, rfl, rfl⟩

/-- Everything one evaluation of the debounce filter can do (R210). -/
theorem ButtonState.poll_cases (n : BitVec 32) (raw : Bool) (x : ButtonState) :
    (raw ≠ x.lastRawSample ∧ x.poll n raw = (⟨x.currentPressed, raw, n⟩, none))
    ∨ (raw = x.lastRawSample ∧ x.debounceCounter = 0 ∧ x.poll n raw = (x, none))
    ∨ (raw = x.lastRawSample ∧ x.debounceCounter ≠ 0 ∧ (x.debounceCounter ≠ 1 ∨ x.currentPressed = raw)
        ∧ x.poll n raw = (⟨x.currentPressed, raw, x.debounceCounter - 1⟩, none))
    ∨ (raw = x.lastRawSample ∧ x.debounceCounter = 1 ∧ x.currentPressed = false ∧ raw = true
        ∧ x.poll n raw = (⟨true, true, 0⟩, some .press))
    ∨ (raw = x.lastRawSample ∧ x.debounceCounter = 1 ∧ x.currentPressed = true ∧ raw = false
        ∧ x.poll n raw = (⟨false, false, 0⟩, some .release)) := by
  obtain ⟨cur, last, k⟩ := x
  by_cases h : raw = last
  · subst h
    by_cases hk : k = 0
    · subst hk; simp [ButtonState.poll]
    · by_cases h1 : k = 1
      · subst h1; cases raw <;> cases cur <;> simp [ButtonState.poll]
      · have : ¬ k - 1 = 0 := fun e => h1 (by
          have := congrArg (· + 1) e
          simpa using this)
        exact .inr (.inr (.inl ⟨rfl, hk, .inl h1, by unfold ButtonState.poll; simp only [ne_eq, not_true_eq_false,
          if_false, hk, not_false_eq_true, if_true, this]⟩))
  · simp [ButtonState.poll, h]

/-- Everything `BTN.POLL` can do. -/
theorem pollButton_cases (b : Button) (s : State) :
    let r := (s.hub.btn b).poll s.cfg.debounceTicks (s.rawPressed b)
    let t : State := { s with hub := s.hub.setBtn b r.1 }
    (r.2 = none ∧ pollButton b s = t.ret .noEvent)
    ∨ (r.2 = some .press ∧ pollButton b s =
        ((t.emit (.press b)).transmit (encCmd s.cfg (buttonCommand b))).ret (.pressed b s.inputs.tx))
    ∨ (r.2 = some .release ∧ pollButton b s = (t.emit (.release b)).ret (.released b)) := by
  unfold pollButton
  rcases h : ((s.hub.btn b).poll s.cfg.debounceTicks (s.rawPressed b)).2 with _ | (_ | _) <;>
    simp [h, pressButton, releaseButton]

/-- Everything the recording of a data frame can do. -/
theorem recordData_cases (v : AdcValue) (s : State) :
    let t : State := { s with hub := { s.hub with cache := ⟨v, true, s.inputs.now⟩ } }
    (s.cfg.dataText = none ∧ recordData v s = t.ret (.data v))
    ∨ (∃ k, s.cfg.dataText = some k ∧ recordData v s = (t.emit (.text (Config.renderData k v))).ret (.data v)) := by
  unfold recordData
  cases h : s.cfg.dataText <;> simp

/-- Everything the report of an acknowledge can do. -/
theorem reportAck_cases (a : Ack) (s : State) :
    (a ≠ .stopOk ∧ reportAck a s = (s.emit (.text (ackText s.cfg a))).ret (.acked a))
    ∨ (a = .stopOk ∧ reportAck a s = ((s.emit (.text s.cfg.textStopOk)).invalidate).ret (.acked .stopOk)) := by
  cases a <;> simp [reportAck, ackText]

/-- Everything the freshness computation can answer (R235). -/
theorem Cache.receiving_cases (k : Cache) (window now draw : Nat) :
    (k.validFlag = false ∧ k.receiving window now draw = false)
    ∨ (k.validFlag = true ∧ k.lastReceivedTimestamp ≤ now
        ∧ k.receiving window now draw = decide (now - k.lastReceivedTimestamp < window))
    ∨ (k.validFlag = true ∧ now < k.lastReceivedTimestamp
        ∧ k.receiving window now draw = Config.freeQuery draw now k.lastReceivedTimestamp) := by
  unfold Cache.receiving
  cases hv : k.validFlag
  · simp
  · by_cases h : k.lastReceivedTimestamp ≤ now
    · simp [h]
    · simp [h, Nat.lt_of_not_le h]

/-- The decoders of data and acknowledge fail with `MalformedFrame` alone. -/
theorem decAdc_error (c : Config) (f : Frame) (e : BlockError) (h : decAdc c f = .error e) : e = .malformedFrame := by
  unfold decAdc at h
  split at h
  · exact (Except.error.inj h).symm
  · split at h
    · exact (Except.error.inj h).symm
    · split at h
      · exact (Except.error.inj h).symm
      · cases h

theorem decAck_error (c : Config) (f : Frame) (e : BlockError) (h : decAck c f = .error e) : e = .malformedFrame := by
  unfold decAck at h
  repeat' split at h
  all_goals first | exact (Except.error.inj h).symm | cases h

/-- Everything the hub can do with a dequeued frame. -/
theorem hubConsume_cases (f : Frame) (s : State) :
    (hubConsume f s = discardFrame s
        ∧ ((f.id = s.cfg.idAdcData ∧ decAdc s.cfg f = .error .malformedFrame)
          ∨ (f.id ≠ s.cfg.idAdcData ∧ (f.id = s.cfg.idAckStart ∨ f.id = s.cfg.idAckStop)
              ∧ decAck s.cfg f = .error .malformedFrame)
          ∨ (f.id ≠ s.cfg.idAdcData ∧ f.id ≠ s.cfg.idAckStart ∧ f.id ≠ s.cfg.idAckStop)))
    ∨ (∃ v, f.id = s.cfg.idAdcData ∧ decAdc s.cfg f = .ok v ∧ hubConsume f s = recordData v s)
    ∨ (∃ a, f.id ≠ s.cfg.idAdcData ∧ (f.id = s.cfg.idAckStart ∨ f.id = s.cfg.idAckStop) ∧ decAck s.cfg f = .ok a
        ∧ hubConsume f s = reportAck a s) := by
  unfold hubConsume
  by_cases h : f.id = s.cfg.idAdcData
  · cases hd : decAdc s.cfg f with
    | error e => simp [h, decAdc_error _ _ e hd]
    | ok v => simp [h]
  · by_cases hk : f.id = s.cfg.idAckStart ∨ f.id = s.cfg.idAckStop
    · cases hd : decAck s.cfg f with
      | error e => simp [h, hk, decAck_error _ _ e hd]
      | ok a => simp [h, hk]
    · have hk' := not_or.1 hk
      simp [h, hk'.1, hk'.2]

/-- Everything `RESET` of one node can do: the two nodes, each left as R290 says. -/
theorem resetNode_cases (n : Node) (s : State) :
    ∃ (slots : Vector Frame 8) (value : AdcValue) (stamp : Nat),
      resetNode n s = match n with
        | .sampler => { s with smp := Sampler.atReset slots }
        | .hub => { s with hub := Hub.atReset slots value stamp } := by
  refine ⟨Vector.ofFn (Config.freeSlot s.draws), Config.freeCacheValue s.draws, Config.freeCacheStamp s.draws, ?_⟩
  cases n <;> rfl

/-! ### The step -/

/-- Event `e` is what the next step takes, and `rest` the moves that are then left: the bench first, else the first move. -/
inductive Takes (s : State) (e : Event) : List Event → Prop where
  | bench : s.bench = some e → Takes s e s.agenda
  | move (rest : List Event) : s.bench = none → s.agenda = e :: rest → Takes s e rest

/-- Everything the fetch of a move can find. -/
theorem State.fetchMove_cases (s : State) (e : Event) (rest : List Event) :
    (∃ i, decode s.cfg e.word = .ok i ∧ level i = .top ∧ s.fetchMove e rest = .instr i (s.load e rest))
    ∨ (∃ i, decode s.cfg e.word = .ok i ∧ level i = .sub ∧ s.fetchMove e rest = .noMove i)
    ∨ (∃ r, decode s.cfg e.word = .error r ∧ s.fetchMove e rest = .rejected r) := by
  unfold State.fetchMove
  cases decode s.cfg e.word with
  | error r => simp
  | ok i => cases hl : level i <;> simp [hl]

/-- Everything the fetch from the bench can find. -/
theorem State.fetchBench_cases (s : State) (e : Event) :
    (∃ i, decode s.cfg e.word = .ok i ∧ s.fetchBench e = .instr i (s.load e s.agenda))
    ∨ (decode s.cfg e.word = .error .malformedFrame ∧ s.fetchBench e = .dropped (s.load e s.agenda))
    ∨ (∃ r, decode s.cfg e.word = .error r ∧ r ≠ .malformedFrame ∧ s.fetchBench e = .rejected r) := by
  unfold State.fetchBench
  cases decode s.cfg e.word with
  | ok i => simp
  | error r => cases r <;> simp

/-- Everything the fetch can find. -/
theorem State.fetch_cases (s : State) :
    (¬ s.cfg.WellFormed ∧ s.fetch = .illFormed)
    ∨ (s.cfg.WellFormed ∧ s.bench = none ∧ s.agenda = [] ∧ s.fetch = .waiting)
    ∨ (∃ e rest i, s.cfg.WellFormed ∧ Takes s e rest ∧ decode s.cfg e.word = .ok i ∧ (s.bench = none → level i = .top)
        ∧ s.fetch = .instr i (s.load e rest))
    ∨ (∃ e, s.cfg.WellFormed ∧ s.bench = some e ∧ decode s.cfg e.word = .error .malformedFrame
        ∧ s.fetch = .dropped (s.load e s.agenda))
    ∨ (∃ e rest i, s.cfg.WellFormed ∧ s.bench = none ∧ s.agenda = e :: rest ∧ decode s.cfg e.word = .ok i
        ∧ level i = .sub ∧ s.fetch = .noMove i)
    ∨ (∃ e rest r, s.cfg.WellFormed ∧ Takes s e rest ∧ decode s.cfg e.word = .error r
        ∧ (s.bench = none ∨ r ≠ .malformedFrame) ∧ s.fetch = .rejected r) := by
  unfold State.fetch
  by_cases h : s.cfg.WellFormed
  · rw [if_pos h]
    cases hb : s.bench with
    | some e =>
      rcases s.fetchBench_cases e with ⟨i, hd, he⟩ | ⟨hd, he⟩ | ⟨r, hd, hr, he⟩
      · exact .inr (.inr (.inl ⟨e, _, i, h, .bench hb, hd, by simp, he⟩))
      · exact .inr (.inr (.inr (.inl ⟨e, h, rfl, hd, he⟩)))
      · exact .inr (.inr (.inr (.inr (.inr ⟨e, _, r, h, .bench hb, hd, .inr hr, he⟩))))
    | none =>
      cases ha : s.agenda with
      | nil => exact .inr (.inl ⟨h, rfl, rfl, rfl⟩)
      | cons e rest =>
        rcases s.fetchMove_cases e rest with ⟨i, hd, hl, he⟩ | ⟨i, hd, hl, he⟩ | ⟨r, hd, he⟩
        · exact .inr (.inr (.inl ⟨e, _, i, h, .move rest hb ha, hd, fun _ => hl, he⟩))
        · exact .inr (.inr (.inr (.inr (.inl ⟨e, rest, i, h, rfl, rfl, hd, hl, he⟩))))
        · exact .inr (.inr (.inr (.inr (.inr ⟨e, _, r, h, .move rest hb ha, hd, .inl rfl, he⟩))))
  · exact .inl ⟨h, if_neg h⟩

/-- Everything a step that answers a next state can be: waiting, an instruction (in a run a top-level one), or a frame dropped
from the bench. -/
theorem step_cases {s t : State} (h : step s = .next t) :
    s.cfg.WellFormed
    ∧ ((s.bench = none ∧ s.agenda = [] ∧ t = s.begin ∧ s.current = none)
      ∨ (∃ e rest i, decode s.cfg e.word = .ok i ∧ Takes s e rest ∧ (s.bench = none → level i = .top)
          ∧ exec i (s.load e rest) = .next t ∧ s.current = some i)
      ∨ (∃ e, s.bench = some e ∧ decode s.cfg e.word = .error .malformedFrame ∧ t = discardFrame (s.load e s.agenda).begin
          ∧ s.current = none)) := by
  unfold step at h
  unfold State.current
  rcases s.fetch_cases with ⟨_, e⟩ | ⟨w, hb, ha, e⟩ | ⟨x, u, i, w, hu, hd, hl, e⟩ | ⟨x, w, hb, hd, e⟩ | ⟨x, rest, i, w, hb, ha, hd, hl, e⟩ | ⟨x, u, r, w, hu, hd, hr, e⟩
  · rw [e] at h; cases h
  · rw [e] at h; cases h
    exact ⟨w, .inl ⟨hb, ha, rfl, by rw [e]⟩⟩
  · rw [e] at h
    exact ⟨w, .inr (.inl ⟨x, u, i, hd, hu, hl, h, by rw [e]⟩)⟩
  · rw [e] at h; cases h
    exact ⟨w, .inr (.inr ⟨x, hb, hd, rfl, by rw [e]⟩)⟩
  · rw [e] at h; cases h
  · rw [e] at h; cases h

end Sys2Proof.Machine
end

