-- ==== Sys2Proof/Laws/Exec.lean ====
section
/-! SUPPORT. What an instruction can do, said once: an inversion of `exec` by effect, for the proofs over all instructions. -/

namespace Sys2Proof.Machine

open Sys2Proof

/-- Where a handler of node `n` starts when `i` runs on `s`: at the step's beginning, when `i` is the handler's own operation or
wire message, or, inside that node's drain, after the oldest frame has been taken off. -/
inductive Base (i : Instr) (s : State) (n : Node) : State → Prop where
  | direct : owner i = some n → i ≠ .smpDrain → i ≠ .hubDrain → (∀ m, i ≠ .deq m) → level i = .sub →
      Base i s n s.begin
  | drained (f : Frame) (q : Queue) : ((n = .sampler ∧ i = .smpDrain) ∨ (n = .hub ∧ i = .hubDrain)) →
      (s.queue n).deq = some (f, q) → Base i s n (s.begin.setQueue n q)

/-- Results that tell of no stored, taken or recorded frame, no acknowledge, no sample, no reset, no discarded frame. -/
def Result.quiet : Result → Bool
  | .enqueued true => false
  | .dequeued (some _) => false
  | .data _ => false
  | .acked _ => false
  | .sampled _ _ => false
  | .resetDone _ => false
  | .discarded => false
  | _ => true

/-- The state after an instruction, by effect. -/
inductive Did (i : Instr) (s : State) : State → Prop where
  /-- nothing but a result; if the instruction takes from a queue, that queue is empty -/
  | answered (r : Result) : r.quiet = true → (∀ n, (i = .deq n → (s.queue n).deq = none)) →
      (i = .smpDrain → s.smp.q.deq = none) → (i = .hubDrain → s.hub.q.deq = none) → Did i s (s.begin.ret r)
  | stored (n : Node) (f : Frame) (q : Queue) : (i = .enq n f ∨ (n = .sampler ∧ i = .smpRx f) ∨ (n = .hub ∧ i = .hubRx f)) →
      (s.queue n).enq f = some q → Did i s ((s.begin.setQueue n q).ret (.enqueued true))
  | taken (n : Node) (f : Frame) (q : Queue) : i = .deq n → (s.queue n).deq = some (f, q) →
      Did i s ((s.begin.setQueue n q).ret (.dequeued (some f)))
  | discarded (n : Node) (u : State) : i = .smpDrain ∨ i = .hubDrain → Base i s n u → Did i s (u.ret .discarded)
  | started (u : State) : Base i s .sampler u → u.smp.mode = .idle →
      Did i s ((((u.setMode .sampling).emit .arm).transmit (encAck s.cfg .startOk)).ret (.started s.inputs.tx))
  | alreadyActive (u : State) : Base i s .sampler u → u.smp.mode ≠ .idle → Did i s (u.ret .alreadyActive)
  | stopped (u : State) : Base i s .sampler u → u.smp.mode = .sampling →
      Did i s ((((u.setMode .idle).emit .disarm).transmit (encAck s.cfg .stopOk)).ret (.stopped s.inputs.tx))
  | stoppedInIdle (u : State) : Base i s .sampler u → u.smp.mode = .idle →
      Did i s ((u.transmit (encAck s.cfg .stopOk)).ret (.stopped s.inputs.tx))
  | stopIgnored (u : State) : Base i s .sampler u → u.smp.mode = .error → Did i s (u.ret .ignored)
  | stopRefused (u : State) (a : Ack) : Base i s .sampler u → u.smp.mode = .error →
      Did i s ((u.transmit (encAck s.cfg a)).ret (.refusedStop s.inputs.tx))
  | rejected (u : State) : Base i s .sampler u →
      Did i s ((u.transmit (encAck s.cfg .error)).ret (.rejected s.inputs.tx))
  | skipped (e : BlockError) : i = .smpTick → s.smp.mode = .sampling → Did i s ((s.begin.emit .readAnalog).ret (.skipped e))
  | sampled (raw : Nat) : i = .smpTick → s.smp.mode = .sampling → raw ≤ s.cfg.adcMax →
      Did i s ((((s.begin.emit .readAnalog).transmit ⟨s.cfg.idAdcData, 8, s.cfg.adcPayload raw⟩).countSample).ret
        (.sampled raw s.inputs.tx))
  | polled (b : Button) (r : ButtonState × Option ButtonEvent) : i = .btnPoll b →
      r = (s.hub.btn b).poll s.cfg.debounceTicks (s.rawPressed b) → r.2 = none →
      Did i s (({ s.begin with hub := s.hub.setBtn b r.1 } : State).ret .noEvent)
  | pollPressed (b : Button) (r : ButtonState × Option ButtonEvent) : i = .btnPoll b →
      r = (s.hub.btn b).poll s.cfg.debounceTicks (s.rawPressed b) → r.2 = some .press →
      Did i s (((({ s.begin with hub := s.hub.setBtn b r.1 } : State).emit (.press b)).transmit
        (encCmd s.cfg (buttonCommand b))).ret (.pressed b s.inputs.tx))
  | pollReleased (b : Button) (r : ButtonState × Option ButtonEvent) : i = .btnPoll b →
      r = (s.hub.btn b).poll s.cfg.debounceTicks (s.rawPressed b) → r.2 = some .release →
      Did i s ((({ s.begin with hub := s.hub.setBtn b r.1 } : State).emit (.release b)).ret (.released b))
  | pressed (b : Button) : i = .hubPress b →
      Did i s ((s.begin.transmit (encCmd s.cfg (buttonCommand b))).ret (.pressed b s.inputs.tx))
  | recorded (u : State) (v : AdcValue) : Base i s .hub u →
      Did i s (({ u with hub := { u.hub with cache := ⟨v, true, s.inputs.now⟩ } } : State).ret (.data v))
  | recordedWithText (u : State) (v : AdcValue) (k : Nat) : Base i s .hub u →
      Did i s ((({ u with hub := { u.hub with cache := ⟨v, true, s.inputs.now⟩ } } : State).emit
        (.text (Config.renderData k v))).ret (.data v))
  | acked (u : State) (a : Ack) : Base i s .hub u → a ≠ .stopOk →
      Did i s ((u.emit (.text (ackText s.cfg a))).ret (.acked a))
  | ackedStop (u : State) : Base i s .hub u →
      Did i s (((u.emit (.text s.cfg.textStopOk)).invalidate).ret (.acked .stopOk))
  | resetSampler (slots : Vector Frame 8) : i = .reset .sampler →
      Did i s (({ s.begin with smp := Sampler.atReset slots } : State).ret (.resetDone .sampler))
  | resetHub (slots : Vector Frame 8) (v : AdcValue) (w : Nat) : i = .reset .hub →
      Did i s (({ s.begin with hub := Hub.atReset slots v w } : State).ret (.resetDone .hub))

/-- A handler starts on the configuration, the inputs and the agenda of the step, with no output and no result yet. -/
theorem Base.frame {i : Instr} {s u : State} {n : Node} (h : Base i s n u) :
    u.cfg = s.cfg ∧ u.inputs = s.inputs ∧ u.agenda = s.agenda ∧ u.draws = s.draws ∧ u.outputs = [] ∧ u.result = none
      ∧ u.smp.mode = s.smp.mode ∧ u.smp.sampleCounter = s.smp.sampleCounter ∧ u.hub.btn1 = s.hub.btn1
      ∧ u.hub.btn2 = s.hub.btn2 ∧ u.hub.cache = s.hub.cache ∧ (n ≠ .sampler → u.smp = s.smp) ∧ (n ≠ .hub → u.hub = s.hub)
      ∧ u.bench = s.bench := by
  cases h with
  | direct => simp
  | drained f q => cases n <;> simp

theorem did_start {i : Instr} {s u : State} (h : Base i s .sampler u) : Did i s (startCommand u) := by
  obtain ⟨hc, hi, -⟩ := h.frame
  rcases startCommand_cases u with ⟨m, e⟩ | ⟨m, e⟩ <;> rw [e]
  · rw [hc, hi]; exact .started u h m
  · exact .alreadyActive u h m

theorem did_stop {i : Instr} {s u : State} (h : Base i s .sampler u) : Did i s (stopCommand u) := by
  obtain ⟨hc, hi, -⟩ := h.frame
  rcases stopCommand_cases u with ⟨m, e⟩ | ⟨m, e⟩ | ⟨m, -, e⟩ | ⟨a, m, -, e⟩ <;> rw [e]
  · rw [hc, hi]; exact .stopped u h m
  · rw [hc, hi]; exact .stoppedInIdle u h m
  · exact .stopIgnored u h m
  · rw [hc, hi]; exact .stopRefused u a h m

theorem did_unknown {i : Instr} {s u : State} (h : Base i s .sampler u) : Did i s (unknownCommand u) := by
  obtain ⟨hc, hi, -⟩ := h.frame
  unfold unknownCommand
  rw [hc, hi]
  exact .rejected u h

theorem did_record {i : Instr} {s u : State} (v : AdcValue) (h : Base i s .hub u) : Did i s (recordData v u) := by
  obtain ⟨-, hi, -⟩ := h.frame
  rcases recordData_cases v u with ⟨-, e⟩ | ⟨k, -, e⟩ <;> rw [e, congrArg Inputs.now hi]
  · exact .recorded u v h
  · exact .recordedWithText u v k h

theorem did_report {i : Instr} {s u : State} (a : Ack) (h : Base i s .hub u) : Did i s (reportAck a u) := by
  obtain ⟨hc, -⟩ := h.frame
  rcases reportAck_cases a u with ⟨m, e⟩ | ⟨m, e⟩ <;> rw [e, hc]
  · exact .acked u a h m
  · exact .ackedStop u h

theorem did_samplerConsume {s u : State} (f : Frame) (h : Base .smpDrain s .sampler u) :
    Did .smpDrain s (samplerConsume f u) := by
  rcases samplerConsume_cases f u with ⟨-, e⟩ | ⟨-, e⟩ | ⟨-, e⟩ | ⟨_, _, -, e⟩ <;> rw [e]
  · exact .discarded .sampler u (.inl rfl) h
  · exact did_start h
  · exact did_stop h
  · exact did_unknown h

theorem did_hubConsume {s u : State} (f : Frame) (h : Base .hubDrain s .hub u) : Did .hubDrain s (hubConsume f u) := by
  rcases hubConsume_cases f u with ⟨e, -⟩ | ⟨v, -, -, e⟩ | ⟨a, -, -, -, e⟩ <;> rw [e]
  · exact .discarded .hub u (.inr rfl) h
  · exact did_record v h
  · exact did_report a h

theorem did_enqueue {i : Instr} {s : State} (n : Node) (f : Frame)
    (hi : i = .enq n f ∨ (n = .sampler ∧ i = .smpRx f) ∨ (n = .hub ∧ i = .hubRx f)) : Did i s (enqueueAt n f s.begin) := by
  rcases enqueueAt_cases n f s.begin with ⟨-, e⟩ | ⟨q, hq, e⟩ <;> rw [e]
  · refine .answered _ rfl ?_ ?_ ?_ <;> rcases hi with rfl | ⟨-, rfl⟩ | ⟨-, rfl⟩ <;> simp
  · exact .stored n f q hi (by simpa using hq)

/-- Everything `exec` can do. -/
theorem did_of_exec {i : Instr} {s t : State} (h : exec i s = .next t) : Did i s t := by
  cases i with
  | cmdStart dlc rest => cases h; exact did_start (.direct rfl (by simp) (by simp) (by simp) rfl)
  | cmdStop dlc rest => cases h; exact did_stop (.direct rfl (by simp) (by simp) (by simp) rfl)
  | dataAdc v dlc => cases h; exact did_record v (.direct rfl (by simp) (by simp) (by simp) rfl)
  | ackStartOk dlc rest => cases h; exact did_report .startOk (.direct rfl (by simp) (by simp) (by simp) rfl)
  | ackStopOk dlc rest => cases h; exact did_report .stopOk (.direct rfl (by simp) (by simp) (by simp) rfl)
  | ackError dlc rest => cases h; exact did_report .error (.direct rfl (by simp) (by simp) (by simp) rfl)
  | cmdUnrecognised which tag dlc rest => cases h; exact did_unknown (.direct rfl (by simp) (by simp) (by simp) rfl)
  | encCmd c => cases h; exact .answered _ rfl (by simp) (by simp) (by simp)
  | encAdc v =>
    change execEncAdc v s = .next t at h
    unfold execEncAdc at h
    split at h <;> cases h <;> exact .answered _ rfl (by simp) (by simp) (by simp)
  | encAck a => cases h; exact .answered _ rfl (by simp) (by simp) (by simp)
  | decCmd f =>
    change execDecCmd f s = .next t at h
    unfold execDecCmd at h
    split at h <;> cases h <;> exact .answered _ rfl (by simp) (by simp) (by simp)
  | decAdc f =>
    change execDecAdc f s = .next t at h
    unfold execDecAdc at h
    split at h <;> cases h <;> exact .answered _ rfl (by simp) (by simp) (by simp)
  | decAck f =>
    change execDecAck f s = .next t at h
    unfold execDecAck at h
    split at h <;> cases h <;> exact .answered _ rfl (by simp) (by simp) (by simp)
  | enq q f => cases h; exact did_enqueue q f (.inl rfl)
  | deq q =>
    change execDeq q s = .next t at h
    unfold execDeq at h
    split at h <;> cases h
    · rename_i hd
      exact .answered _ rfl (by rintro n ⟨⟩; exact hd) (by simp) (by simp)
    · rename_i f r hd
      exact .taken q f r rfl hd
  | qstat q => cases h; exact .answered _ rfl (by simp) (by simp) (by simp)
  | smpRx f => cases h; exact did_enqueue .sampler f (.inr (.inl ⟨rfl, rfl⟩))
  | smpDrain =>
    cases h
    rcases drainWith_cases .sampler samplerConsume s.begin with ⟨hd, e⟩ | ⟨f, q, hd, e⟩ <;> rw [e]
    · exact .answered _ rfl (by simp) (fun _ => by simpa using hd) (by simp)
    · exact did_samplerConsume f (.drained f q (.inl ⟨rfl, rfl⟩) (by simpa using hd))
  | smpStart => cases h; exact did_start (.direct rfl (by simp) (by simp) (by simp) rfl)
  | smpStop => cases h; exact did_stop (.direct rfl (by simp) (by simp) (by simp) rfl)
  | smpUnknown => cases h; exact did_unknown (.direct rfl (by simp) (by simp) (by simp) rfl)
  | smpTick =>
    cases h
    rcases samplerTick_cases s.begin with ⟨-, e⟩ | ⟨hw, m, -, e⟩ | ⟨raw, m, -, -, e⟩ | ⟨raw, m, -, hr, e⟩ <;> rw [e]
    · exact .answered _ rfl (by simp) (by simp) (by simp)
    · exact .skipped _ rfl m
    · exact .skipped _ rfl m
    · exact .sampled raw rfl m hr
  | btnPoll b =>
    cases h
    rcases pollButton_cases b s.begin with ⟨hr, e⟩ | ⟨hr, e⟩ | ⟨hr, e⟩ <;> rw [e]
    · exact .polled b _ rfl rfl hr
    · exact .pollPressed b _ rfl rfl hr
    · exact .pollReleased b _ rfl rfl hr
  | hubPress b => cases h; exact .pressed b rfl
  | hubRelease b => cases h; exact .answered _ rfl (by simp) (by simp) (by simp)
  | hubEdge => cases h; exact .answered _ rfl (by simp) (by simp) (by simp)
  | hubRx f => cases h; exact did_enqueue .hub f (.inr (.inr ⟨rfl, rfl⟩))
  | hubDrain =>
    cases h
    rcases drainWith_cases .hub hubConsume s.begin with ⟨hd, e⟩ | ⟨f, q, hd, e⟩ <;> rw [e]
    · exact .answered _ rfl (by simp) (by simp) (fun _ => by simpa using hd)
    · exact did_hubConsume f (.drained f q (.inr ⟨rfl, rfl⟩) (by simpa using hd))
  | hubData v => cases h; exact did_record v (.direct rfl (by simp) (by simp) (by simp) rfl)
  | hubAck a => cases h; exact did_report a (.direct rfl (by simp) (by simp) (by simp) rfl)
  | hubQuery => cases h; exact .answered _ rfl (by simp) (by simp) (by simp)
  | reset n =>
    cases h
    obtain ⟨slots, v, w, e⟩ := resetNode_cases n s.begin
    rw [e]
    cases n
    · exact .resetSampler slots rfl
    · exact .resetHub slots v w rfl

end Sys2Proof.Machine
end

