-- ==== Sys2Proof/Laws/PerInstr.lean ====
section
/-! SUPPORT. The family `EventCode`: the encoding of every block operation carries its event code of R109, and a wire message has
none. -/

namespace Sys2Proof.Laws

open Sys2Proof

/-- The event codes of R109's table; a wire message is not encoded by a code. -/
def eventCode : Instr → Option Nat
  | .cmdStart _ _ => none
  | .cmdStop _ _ => none
  | .dataAdc _ _ => none
  | .ackStartOk _ _ => none
  | .ackStopOk _ _ => none
  | .ackError _ _ => none
  | .cmdUnrecognised _ _ _ _ => none
  | .encCmd _ => some 0x00
  | .encAdc _ => some 0x01
  | .encAck _ => some 0x02
  | .decCmd _ => some 0x03
  | .decAdc _ => some 0x04
  | .decAck _ => some 0x05
  | .enq _ _ => some 0x06
  | .deq _ => some 0x07
  | .qstat _ => some 0x08
  | .smpRx _ => some 0x09
  | .smpDrain => some 0x0A
  | .smpStart => some 0x0B
  | .smpStop => some 0x0C
  | .smpUnknown => some 0x0D
  | .smpTick => some 0x0E
  | .btnPoll _ => some 0x0F
  | .hubPress _ => some 0x10
  | .hubRelease _ => some 0x11
  | .hubEdge => some 0x12
  | .hubRx _ => some 0x13
  | .hubDrain => some 0x14
  | .hubData _ => some 0x15
  | .hubAck _ => some 0x16
  | .hubQuery => some 0x17
  | .reset _ => some 0x18

/-- An operation word with code `k` below its operand bits has `k` in its low byte. -/
theorem low_byte {k o w : Nat} (h : opWord k o = .op w) (hk : k < 256) : w % 256 = k := by
  unfold opWord at h
  cases h
  omega

/-- The encoding of `i` is an operation word exactly when R109 gives it a code, and that code is the word's low byte. -/
def EventCode.Statement (i : Instr) : Prop :=
  ∀ c : Config,
    (∀ k, eventCode i = some k → ∃ w, encode c i = .op w ∧ w % 256 = k)
      ∧ (eventCode i = none → ∃ w, encode c i = .wire w)

/-- The two shapes of an encoding, once. -/
theorem eventCode_op {i : Instr} {k : Nat} (o : Config → Nat) (hk : k < 256) (he : eventCode i = some k)
    (h : ∀ c, encode c i = opWord k (o c)) : EventCode.Statement i := by
  intro c
  constructor
  · intro k' e
    rw [he] at e
    cases e
    exact ⟨k + 256 * o c, h c, low_byte rfl hk⟩
  · intro e
    rw [he] at e
    cases e

theorem eventCode_wire {i : Instr} (f : Config → Nat) (he : eventCode i = none) (h : ∀ c, encode c i = .wire (f c)) :
    EventCode.Statement i := by
  intro c
  refine ⟨fun k e => ?_, fun _ => ⟨f c, h c⟩⟩
  rw [he] at e
  cases e

theorem EventCode.cmdStart (dlc : Fin 9) (rest : Reserved) : EventCode.Statement (.cmdStart dlc rest) := eventCode_wire (fun _ => _) rfl fun _ => rfl
theorem EventCode.cmdStop (dlc : Fin 9) (rest : Reserved) : EventCode.Statement (.cmdStop dlc rest) := eventCode_wire (fun _ => _) rfl fun _ => rfl
theorem EventCode.dataAdc (v : AdcValue) (dlc : Fin 9) : EventCode.Statement (.dataAdc v dlc) := eventCode_wire (fun _ => _) rfl fun _ => rfl
theorem EventCode.ackStartOk (dlc : Fin 9) (rest : Reserved) : EventCode.Statement (.ackStartOk dlc rest) := eventCode_wire (fun _ => _) rfl fun _ => rfl
theorem EventCode.ackStopOk (dlc : Fin 9) (rest : Reserved) : EventCode.Statement (.ackStopOk dlc rest) := eventCode_wire (fun _ => _) rfl fun _ => rfl
theorem EventCode.ackError (dlc : Fin 9) (rest : Reserved) : EventCode.Statement (.ackError dlc rest) := eventCode_wire (fun _ => _) rfl fun _ => rfl
theorem EventCode.cmdUnrecognised (which : Command) (tag : Byte) (dlc : Fin 9) (rest : Reserved) : EventCode.Statement (.cmdUnrecognised which tag dlc rest) := eventCode_wire (fun _ => _) rfl fun _ => rfl
theorem EventCode.encCmd (c : Command) : EventCode.Statement (.encCmd c) := eventCode_op (fun _ => _) (by decide) rfl fun _ => rfl
theorem EventCode.encAdc (v : Nat) : EventCode.Statement (.encAdc v) := eventCode_op (fun _ => _) (by decide) rfl fun _ => rfl
theorem EventCode.encAck (a : Ack) : EventCode.Statement (.encAck a) := eventCode_op (fun _ => _) (by decide) rfl fun _ => rfl
theorem EventCode.decCmd (f : Frame) : EventCode.Statement (.decCmd f) := eventCode_op (fun _ => _) (by decide) rfl fun _ => rfl
theorem EventCode.decAdc (f : Frame) : EventCode.Statement (.decAdc f) := eventCode_op (fun _ => _) (by decide) rfl fun _ => rfl
theorem EventCode.decAck (f : Frame) : EventCode.Statement (.decAck f) := eventCode_op (fun _ => _) (by decide) rfl fun _ => rfl
theorem EventCode.enq (q : Node) (f : Frame) : EventCode.Statement (.enq q f) := eventCode_op (fun _ => _) (by decide) rfl fun _ => rfl
theorem EventCode.deq (q : Node) : EventCode.Statement (.deq q) := eventCode_op (fun _ => _) (by decide) rfl fun _ => rfl
theorem EventCode.qstat (q : Node) : EventCode.Statement (.qstat q) := eventCode_op (fun _ => _) (by decide) rfl fun _ => rfl
theorem EventCode.smpRx (f : Frame) : EventCode.Statement (.smpRx f) := eventCode_op (fun _ => _) (by decide) rfl fun _ => rfl
theorem EventCode.smpDrain : EventCode.Statement .smpDrain := eventCode_op (fun _ => _) (by decide) rfl fun _ => rfl
theorem EventCode.smpStart : EventCode.Statement .smpStart := eventCode_op (fun _ => _) (by decide) rfl fun _ => rfl
theorem EventCode.smpStop : EventCode.Statement .smpStop := eventCode_op (fun _ => _) (by decide) rfl fun _ => rfl
theorem EventCode.smpUnknown : EventCode.Statement .smpUnknown := eventCode_op (fun _ => _) (by decide) rfl fun _ => rfl
theorem EventCode.smpTick : EventCode.Statement .smpTick := eventCode_op (fun _ => _) (by decide) rfl fun _ => rfl
theorem EventCode.btnPoll (b : Button) : EventCode.Statement (.btnPoll b) := eventCode_op (fun _ => _) (by decide) rfl fun _ => rfl
theorem EventCode.hubPress (b : Button) : EventCode.Statement (.hubPress b) := eventCode_op (fun _ => _) (by decide) rfl fun _ => rfl
theorem EventCode.hubRelease (b : Button) : EventCode.Statement (.hubRelease b) := eventCode_op (fun _ => _) (by decide) rfl fun _ => rfl
theorem EventCode.hubEdge : EventCode.Statement .hubEdge := eventCode_op (fun _ => _) (by decide) rfl fun _ => rfl
theorem EventCode.hubRx (f : Frame) : EventCode.Statement (.hubRx f) := eventCode_op (fun _ => _) (by decide) rfl fun _ => rfl
theorem EventCode.hubDrain : EventCode.Statement .hubDrain := eventCode_op (fun _ => _) (by decide) rfl fun _ => rfl
theorem EventCode.hubData (v : AdcValue) : EventCode.Statement (.hubData v) := eventCode_op (fun _ => _) (by decide) rfl fun _ => rfl
theorem EventCode.hubAck (a : Ack) : EventCode.Statement (.hubAck a) := eventCode_op (fun _ => _) (by decide) rfl fun _ => rfl
theorem EventCode.hubQuery : EventCode.Statement .hubQuery := eventCode_op (fun _ => _) (by decide) rfl fun _ => rfl
theorem EventCode.reset (n : Node) : EventCode.Statement (.reset n) := eventCode_op (fun _ => _) (by decide) rfl fun _ => rfl

end Sys2Proof.Laws
end

