-- ==== Sys2Proof/Tests/Slice0.lean ====
section
/-! SUPPORT. Tests of single operations on fixed values, and for every obligation with hypotheses a state and operands that meet
them. Expected values are the spec's: its vectors V400 to V464 and its tables; a word is written out from its encoding. -/

namespace Sys2Proof.Tests

open Sys2Proof Sys2Proof.Machine

/-! ### Helpers -/

/-- The reference configuration (R9). -/
abbrev ref : Config := Config.reference

/-- A command or acknowledge frame with zero reserved bytes. -/
def tagFrame (id : CanId) (tag : Byte) : Frame := ⟨id, 8, ⟨tag, 0, 0, 0, 0, 0, 0, 0⟩⟩

/-- A data frame with the last four payload bytes given. -/
def dataFrame (d4 d5 d6 d7 : Byte) : Frame := ⟨0x200, 8, ⟨0x30, 0x30, 0x30, 0x30, d4, d5, d6, d7⟩⟩

def frameA : Frame := ⟨0x400, 8, ⟨0, 0, 0, 0, 0, 0, 0, 0⟩⟩

/-- The outputs and the result of one instruction. -/
def shown (i : Instr) (s : State) : Option (List Output × Option Result) :=
  match exec i s with
  | .next t => some (t.outputs, t.result)
  | .fault _ => none
  | .refused _ => none

/-- A queue's head, tail and count after one instruction. -/
def indices (n : Node) (i : Instr) (s : State) : Option (Nat × Nat × Nat) :=
  match exec i s with
  | .next t => some ((t.queue n).head.val, (t.queue n).tail.val, (t.queue n).count.val)
  | .fault _ => none
  | .refused _ => none

/-- The sampler's state and counter after one instruction. -/
def control (i : Instr) (s : State) : Option (SamplerMode × BitVec 32) :=
  match exec i s with
  | .next t => some (t.smp.mode, t.smp.sampleCounter)
  | .fault _ => none
  | .refused _ => none

/-- A button's record after one instruction. -/
def button (b : Button) (i : Instr) (s : State) : Option ButtonState :=
  match exec i s with
  | .next t => some (t.hub.btn b)
  | .fault _ => none
  | .refused _ => none

/-- The cache after one instruction. -/
def cache (i : Instr) (s : State) : Option Cache :=
  match exec i s with
  | .next t => some t.hub.cache
  | .fault _ => none
  | .refused _ => none

/-- Why a step was refused. -/
def refusal (s : State) : Option Refusal :=
  match step s with
  | .next _ => none
  | .fault _ => none
  | .refused r => some r

/-- A queue with the indices given and `f` in the slot `i`. -/
def ring (h t : Fin 8) (n : Fin 9) (i : Fin 8) (f : Frame) : Queue := ⟨slotsAtReset.set i f, h, t, n⟩

def withMode (m : SamplerMode) (n : BitVec 32) : State := { State.reset with smp := { State.reset.smp with mode := m, sampleCounter := n } }
def withInputs (s : State) (x : Inputs) : State := { s with inputs := x }
def withBtn (b : Button) (x : ButtonState) : State := { State.reset with hub := State.reset.hub.setBtn b x }
def withCache (k : Cache) (now : Nat) : State :=
  { State.reset with hub := { State.reset.hub with cache := k }, inputs := { Inputs.atReset with now := now } }
def withQueue (n : Node) (q : Queue) : State := State.reset.setQueue n q
def withAgenda (s : State) (ws : List EventWord) : State := { s with agenda := ws.map fun w => ⟨w, Inputs.atReset⟩ }

/-! ### Well-formedness: one ill-formed term for each check -/

theorem test_wf_reference : ref.WellFormed := by decide
theorem test_ill_formed_ids : ¬ { ref with idCmdStop := 0x100 }.WellFormed := by decide
theorem test_ill_formed_ids_last : ¬ { ref with idAckStop := 0x300 }.WellFormed := by decide
theorem test_ill_formed_ack_tags : ¬ { ref with tagAckStopOk := 0xFF }.WellFormed := by decide
theorem test_ill_formed_cmd_tags : ¬ { ref with tagCmdStop := 0x01 }.WellFormed := by decide
theorem test_ill_formed_debounce : ¬ { ref with debounceTicks := 0 }.WellFormed := by decide
theorem test_ill_formed_capacity : ¬ { ref with queueCapacity := 7 }.WellFormed := by decide
theorem test_ill_formed_digit_base : ¬ { ref with digitBase := 247 }.WellFormed := by decide
theorem test_ill_formed_adc_max : ¬ { ref with adcMax := 4096 }.WellFormed := by decide
theorem test_ill_formed_buttons : ¬ { ref with nButtons := 3 }.WellFormed := by decide
theorem test_wf_digit_base_edge : { ref with digitBase := 246 }.WellFormed := by decide
theorem test_ill_formed_start_tag : (Instr.cmdUnrecognised .start 0x01 8 Reserved.zero).wf ref = false := by decide
theorem test_ill_formed_stop_tag : (Instr.cmdUnrecognised .stop 0x02 8 Reserved.zero).wf ref = false := by decide
theorem test_wf_crossed_tag : (Instr.cmdUnrecognised .start 0x02 8 Reserved.zero).wf ref = true := by decide
theorem test_step_refuses_ill_formed :
    refusal { State.reset with cfg := { ref with debounceTicks := 0 } } = some .illFormedConfiguration := by decide

/-! ### Decoding: every constructor from a word written out -/

theorem test_decode_cmdStart : decodeTableWord 80 0x10080100000000000000 = some (.cmdStart 8 Reserved.zero) := by decide
theorem test_decode_cmdStop :
    decodeTableWord 80 0x101802AABBCCDDEEFF11 = some (.cmdStop 8 ⟨0xAA, 0xBB, 0xCC, 0xDD, 0xEE, 0xFF, 0x11⟩) := by decide
theorem test_decode_dataAdc : decodeTableWord 80 0x20083030303034303935 = some (.dataAdc 4095 8) := by decide
theorem test_decode_ackStartOk : decodeTableWord 80 0x30000100000000000000 = some (.ackStartOk 0 Reserved.zero) := by decide
theorem test_decode_ackStopOk : decodeTableWord 80 0x30180200000000000000 = some (.ackStopOk 8 Reserved.zero) := by decide
theorem test_decode_ackError :
    decodeTableWord 80 0x3018FF01020304050607 = some (.ackError 8 ⟨1, 2, 3, 4, 5, 6, 7⟩) := by decide
theorem test_decode_cmdUnrecognised :
    decodeTableWord 80 0x10180100000000000000 = some (.cmdUnrecognised .stop 0x01 8 Reserved.zero) := by decide
theorem test_decode_encCmd : decode ref (.op 0x0100) = .ok (.encCmd .stop) := rfl
theorem test_decode_encAdc : decode ref (.op 0x100001) = .ok (.encAdc 4096) := rfl
theorem test_decode_encAck : decode ref (.op 0x0202) = .ok (.encAck .error) := rfl
theorem test_decode_decCmd : decode ref (.op 0x1018020000000000000003) = .ok (.decCmd (tagFrame 0x101 0x02)) := by rfl
theorem test_decode_decAdc :
    decode ref (.op 0x2008303030303034353604) = .ok (.decAdc (dataFrame 0x30 0x34 0x35 0x36)) := by rfl
theorem test_decode_decAck : decode ref (.op 0x3018FF0000000000000005) = .ok (.decAck (tagFrame 0x301 0xFF)) := by rfl
/-- Bit 8 is the queue, the frame word stands from bit 9 up: `0x40080000000000000000` doubled is `0x80100000000000000000`. -/
theorem test_decode_enq : decode ref (.op 0x8010000000000000000106) = .ok (.enq .hub frameA) := by rfl
theorem test_decode_deq : decode ref (.op 0x0107) = .ok (.deq .hub) := rfl
theorem test_decode_qstat : decode ref (.op 0x0108) = .ok (.qstat .hub) := rfl
theorem test_decode_smpRx : decode ref (.op 0x1008010000000000000009) = .ok (.smpRx (tagFrame 0x100 0x01)) := by rfl
theorem test_decode_smpDrain : decodeTableWord 8 0x0A = some .smpDrain := by decide
theorem test_decode_smpStart : decodeTableWord 8 0x0B = some .smpStart := by decide
theorem test_decode_smpStop : decodeTableWord 8 0x0C = some .smpStop := by decide
theorem test_decode_smpUnknown : decodeTableWord 8 0x0D = some .smpUnknown := by decide
theorem test_decode_smpTick : decodeTableWord 8 0x0E = some .smpTick := by decide
theorem test_decode_btnPoll : decode ref (.op 0x010F) = .ok (.btnPoll .two) := rfl
theorem test_decode_hubPress : decode ref (.op 0x0110) = .ok (.hubPress .two) := rfl
theorem test_decode_hubRelease : decode ref (.op 0x0011) = .ok (.hubRelease .one) := rfl
theorem test_decode_hubEdge : decodeTableWord 8 0x12 = some .hubEdge := by decide
theorem test_decode_hubRx : decode ref (.op 0x3008010000000000000013) = .ok (.hubRx (tagFrame 0x300 0x01)) := by rfl
theorem test_decode_hubDrain : decodeTableWord 8 0x14 = some .hubDrain := by decide
theorem test_decode_hubData : decode ref (.op 0x0FFF15) = .ok (.hubData 4095) := rfl
theorem test_decode_hubAck : decode ref (.op 0x0116) = .ok (.hubAck .stopOk) := rfl
theorem test_decode_hubQuery : decodeTableWord 8 0x17 = some .hubQuery := by decide
theorem test_decode_reset : decode ref (.op 0x0118) = .ok (.reset .hub) := rfl

theorem test_reject_code : decode ref (.op 0x1F) = .error .unassignedCode := rfl
theorem test_reject_bit5 : decode ref (.op 0x20) = .error .reservedBits := rfl
theorem test_reject_bit79 : decode ref (.wire 0x90080100000000000000) = .error .reservedBits := by rfl
theorem test_reject_dlc : decode ref (.wire 0x10090100000000000000) = .error .dlcTooLarge := by rfl
theorem test_reject_operand : decode ref (.op 0x010A) = .error .badOperand := rfl
theorem test_reject_value : decode ref (.op 0x100015) = .error .badOperand := rfl
theorem test_reject_unknown_id : decode ref (.wire 0x7FF80100000000000000) = .error .malformedFrame := by rfl
theorem test_reject_crossed_ack : decode ref (.wire 0x30180100000000000000) = .error .malformedFrame := by rfl
theorem test_step_refuses_code : refusal (State.reset.withFetchWord 8 0x19) = some (.undecodable .unassignedCode) := by decide

/-- R273, R274: a second consumer is no move of the environment. -/
theorem test_step_refuses_second_consumer : refusal (withAgenda State.reset [.op 0x07]) = some (.notTopLevel (.deq .sampler)) := by
  decide
/-- R180: a command reaches the sampler only through its queue. -/
theorem test_step_refuses_bare_command : refusal (withAgenda State.reset [.wire 0x10080100000000000000])
    = some (.notTopLevel (.cmdStart 8 Reserved.zero)) := by decide

/-! ### Single steps -/

/-- V410. -/
theorem test_encCmd : shown (.encCmd .stop) State.reset = some ([], some (.frame (tagFrame 0x101 0x02))) := by decide
/-- V411. -/
theorem test_encAdc : shown (.encAdc 4095) State.reset = some ([], some (.frame (dataFrame 0x34 0x30 0x39 0x35))) := by decide
/-- V411. -/
theorem test_encAdc_range : shown (.encAdc 4096) State.reset = some ([], some (.err (.outOfRange 4096))) := by decide
/-- V410. -/
theorem test_encAck : shown (.encAck .error) State.reset = some ([], some (.frame (tagFrame 0x301 0xFF))) := by decide
/-- V421. -/
theorem test_decCmd : shown (.decCmd (tagFrame 0x100 0x02)) State.reset
    = some ([], some (.command (.unrecognised 0x100 0x02))) := by decide
/-- V421. -/
theorem test_decCmd_malformed : shown (.decCmd (tagFrame 0x200 0x01)) State.reset = some ([], some (.err .malformedFrame)) := by
  decide
/-- V420. -/
theorem test_decAdc : shown (.decAdc (dataFrame 0x34 0x30 0x39 0x35)) State.reset = some ([], some (.value 4095)) := by decide
/-- V420. -/
theorem test_decAdc_range : shown (.decAdc (dataFrame 0x34 0x30 0x39 0x36)) State.reset
    = some ([], some (.err .malformedFrame)) := by decide
/-- V422. -/
theorem test_decAck : shown (.decAck (tagFrame 0x301 0x02)) State.reset = some ([], some (.acknowledge .stopOk)) := by decide
/-- V422. -/
theorem test_decAck_crossed : shown (.decAck (tagFrame 0x300 0xFF)) State.reset = some ([], some (.err .malformedFrame)) := by
  decide
/-- V430: the head wraps. -/
theorem test_enq : indices .hub (.enq .hub frameA) (withQueue .hub (ring 7 7 0 0 frameA)) = some (0, 7, 1) := by decide
/-- V430: a full queue drops. -/
theorem test_enq_full : shown (.enq .hub frameA) (withQueue .hub (ring 3 3 8 0 frameA)) = some ([], some (.enqueued false)) := by
  decide
/-- V430: the tail wraps. -/
theorem test_deq : indices .sampler (.deq .sampler) (withQueue .sampler (ring 0 7 1 7 frameA)) = some (0, 0, 0) := by decide
/-- V430: the frame is the tail's. -/
theorem test_deq_frame : shown (.deq .sampler) (withQueue .sampler (ring 3 3 8 3 frameA))
    = some ([], some (.dequeued (some frameA))) := by decide
/-- V430. -/
theorem test_qstat : shown (.qstat .hub) (withQueue .hub (ring 3 3 8 0 frameA))
    = some ([], some (.queueStatus 8 false true)) := by decide
/-- R181. -/
theorem test_smpRx : indices .sampler (.smpRx frameA) State.reset = some (1, 0, 1) := by decide
/-- V464, step 6. -/
theorem test_smpDrain : shown .smpDrain (withQueue .sampler (ring 1 0 1 0 (tagFrame 0x100 0x01)))
    = some ([.arm, .tx (tagFrame 0x300 0x01)], some (.started .ok)) := by decide
/-- V431. -/
theorem test_smpStart : control .smpStart (withMode .idle 0) = some (.sampling, 0) := by decide
/-- V431. -/
theorem test_smpStop : shown .smpStop (withMode .sampling 5)
    = some ([.disarm, .tx (tagFrame 0x301 0x02)], some (.stopped .ok)) := by decide
/-- V431. -/
theorem test_smpUnknown : shown .smpUnknown (withMode .error 5) = some ([.tx (tagFrame 0x301 0xFF)], some (.rejected .ok)) := by
  decide
/-- V431. -/
theorem test_smpTick : shown .smpTick (withInputs (withMode .sampling 5) ⟨.timeout, .ok 456, false, 0⟩)
    = some ([.readAnalog, .tx (dataFrame 0x30 0x34 0x35 0x36)], some (.sampled 456 .timeout)) := by decide
/-- V431: the counter wraps. -/
theorem test_smpTick_wraps : control .smpTick (withInputs (withMode .sampling 0xFFFFFFFF) ⟨.ok, .ok 1, false, 0⟩)
    = some (.sampling, 0) := by decide
/-- V440. -/
theorem test_btnPoll : shown (.btnPoll .two) (withInputs (withBtn .two ⟨false, true, 1⟩) ⟨.timeout, .ok 0, true, 0⟩)
    = some ([.press .two, .tx (tagFrame 0x101 0x02)], some (.pressed .two .timeout)) := by decide
/-- V440: a reverted change reloads the counter. -/
theorem test_btnPoll_reload : button .one (.btnPoll .one) (withBtn .one ⟨false, true, 1⟩) = some ⟨false, false, 3⟩ := by decide
/-- R212. -/
theorem test_hubPress : shown (.hubPress .one) State.reset
    = some ([.tx (tagFrame 0x100 0x01)], some (.pressed .one .ok)) := by decide
/-- R213. -/
theorem test_hubRelease : shown (.hubRelease .one) State.reset = some ([], some (.released .one)) := by decide
/-- R215. -/
theorem test_hubEdge : shown .hubEdge State.reset = some ([], some .edgeDone) := by decide
/-- R231. -/
theorem test_hubRx : indices .hub (.hubRx frameA) State.reset = some (1, 0, 1) := by decide
/-- V463, step 7: a bad digit. -/
theorem test_hubDrain_discards : shown .hubDrain (withQueue .hub (ring 1 0 1 0 (dataFrame 0x30 0x30 0x30 0x3A)))
    = some ([], some .discarded) := by decide
/-- V463, step 3. -/
theorem test_hubDrain : cache .hubDrain (withInputs (withQueue .hub (ring 1 0 1 0 (dataFrame 0x30 0x34 0x35 0x36)))
    ⟨.ok, .ok 0, false, 1000⟩) = some ⟨456, true, 1000⟩ := by decide
/-- V450. -/
theorem test_hubData : cache (.hubData 7) (withCache ⟨456, true, 1000⟩ 3500) = some ⟨7, true, 3500⟩ := by decide
/-- V450: StopOk invalidates. -/
theorem test_hubAck_stop : cache (.hubAck .stopOk) (withCache ⟨456, true, 1000⟩ 0) = some ⟨456, false, 1000⟩ := by decide
/-- V450: Error does not. -/
theorem test_hubAck_error : cache (.hubAck .error) (withCache ⟨456, true, 1000⟩ 0) = some ⟨456, true, 1000⟩ := by decide
/-- V450: inside the window. -/
theorem test_hubQuery_last : shown .hubQuery (withCache ⟨456, true, 1000⟩ 2999) = some ([], some (.receiving true)) := by decide
/-- V450: the window is over. -/
theorem test_hubQuery_over : shown .hubQuery (withCache ⟨456, true, 1000⟩ 3000) = some ([], some (.receiving false)) := by decide
/-- R290. -/
theorem test_reset : control (.reset .sampler) (withMode .error 5) = some (.idle, 0) := by decide
/-- R98: a wire message runs its handler. -/
theorem test_cmdStart : control (.cmdStart 0 Reserved.zero) (withMode .idle 0) = some (.sampling, 0) := by decide
theorem test_cmdStop : control (.cmdStop 8 Reserved.zero) (withMode .sampling 5) = some (.idle, 5) := by decide
theorem test_dataAdc : cache (.dataAdc 7 8) (withCache ⟨0, false, 0⟩ 3500) = some ⟨7, true, 3500⟩ := by decide
theorem test_ackStartOk : cache (.ackStartOk 8 Reserved.zero) (withCache ⟨9, true, 1⟩ 0) = some ⟨9, true, 1⟩ := by decide
theorem test_ackStopOk : cache (.ackStopOk 8 Reserved.zero) (withCache ⟨9, true, 1⟩ 0) = some ⟨9, false, 1⟩ := by decide
theorem test_ackError : shown (.ackError 8 Reserved.zero) State.reset
    = some ([.text [0x45, 0x52, 0x52, 0x4F, 0x52, 0x0A]], some (.acked .error)) := by decide
theorem test_cmdUnrecognised : shown (.cmdUnrecognised .start 0x7E 8 Reserved.zero) (withMode .sampling 5)
    = some ([.tx (tagFrame 0x301 0xFF)], some (.rejected .ok)) := by decide

/-! ### Witnesses: for each obligation with hypotheses, a state and operands that meet them, for each clause at a boundary -/

/-- A step that answers a next state with the property `P`. -/
def Next (i : Instr) (s : State) (P : State → Prop) : Prop := ∃ t, exec i s = .next t ∧ P t

/-- A run of the hub's queue: one reception, one pass of the drain, from reset. -/
def fifoRun : State := withAgenda State.reset [.op 0x4008000000000000000013, .op 0x14]

/-- A Stop in the sampler's queue while it samples, another to be received, a pass for each. -/
def stopRun : State :=
  withAgenda ((withMode .sampling 5).setQueue .sampler (ring 1 0 1 0 (tagFrame 0x101 0x02)))
    [.op 0x0A, .op 0x1018020000000000000009, .op 0x0A]

/-- A data frame in the hub's queue, to be drained at time 1000, and a query at time 2999. -/
def timedRun : State :=
  { withQueue .hub (ring 1 0 1 0 (dataFrame 0x30 0x34 0x35 0x36)) with
    agenda := [⟨.op 0x14, ⟨.ok, .ok 0, false, 1000⟩⟩, ⟨.op 0x17, ⟨.ok, .ok 0, false, 2999⟩⟩] }

/-- What a step leaves, if it answers a next state. -/
def Stepped (s : State) (P : State → Prop) : Prop := ∃ t, step s = .next t ∧ P t

/-- A run of `BTN.POLL(1)` at the level given, from the record given. -/
def pollRun (x : ButtonState) (levels : List Bool) : State :=
  { withBtn .one x with agenda := levels.map fun l => ⟨.op 0x0F, ⟨.ok, .ok 0, l, 0⟩⟩ }

/-- The number the eight payload bytes spell under `REFCFG`. -/
def spelled (f : Frame) : Nat := f.data.bytes.foldl (fun a b => a * 10 + (b.toNat - ref.digitBase.toNat)) 0

def sampledOnce : State := withInputs (withMode .sampling 5) ⟨.ok, .ok 4095, false, 0⟩

theorem witness_encodeThenDecode :
    ref.WellFormed ∧ (Instr.cmdUnrecognised .stop 0x01 8 Reserved.zero).wf ref = true ∧ (Instr.dataAdc 4095 8).wf ref = true := by
  decide
theorem witness_decodeThenEncode : ref.WellFormed ∧ decode ref (.wire 0x20083030303034303935) = .ok (.dataAdc 4095 8)
    ∧ decode ref (.op 0x0118) = .ok (.reset .hub) := ⟨by decide, rfl, rfl⟩
theorem witness_frameWordLayout : Frame.ofWord 0x10080100000000000000 = some (tagFrame 0x100 0x01)
    ∧ Frame.ofWord 0x10090100000000000000 = none := by decide
theorem witness_unassignedCodes : 0x19 ≤ 0x19 % 256 ∧ 0x19 % 256 ≤ 0x1F ∧ 0x19 ≤ 0x011F % 256 ∧ 0x011F % 256 ≤ 0x1F
    ∧ 0x20 ≤ 0x20 % 256 ∧ 0x20 ≤ 0xFF % 256 := by decide
theorem witness_codecRoundTrips : ref.WellFormed
    ∧ decAdc ref (dataFrame 0x34 0x30 0x39 0x35) = .ok 4095 ∧ (dataFrame 0x34 0x30 0x39 0x35).dlc = 8 := ⟨by decide, rfl, rfl⟩
theorem witness_crossKind : ref.WellFormed ∧ encAdc ref 4095 = .ok (dataFrame 0x34 0x30 0x39 0x35)
    ∧ decCmd ref (tagFrame 0x100 0x02) = .ok (.unrecognised 0x100 0x02) ∧ decAck ref (tagFrame 0x301 0xFF) = .ok .error :=
  ⟨by decide, rfl, rfl, rfl⟩
theorem witness_adcPayload : ref.WellFormed ∧ 4095 < 4096 ∧ 4095 ≤ 4095 := by decide
theorem witness_adcDecodes : { ref with digitBase := 246 }.WellFormed := by decide
theorem witness_adcEncoder : State.reset.cfg.WellFormed ∧ 4095 < 4096 ∧ 4095 ≤ 4095 := by decide
theorem witness_commandDecoder :
    ((tagFrame 0x0FF 1).id ≠ ref.idCmdStart ∧ (tagFrame 0x0FF 1).id ≠ ref.idCmdStop)
    ∧ ((tagFrame 0x100 1).id = ref.idCmdStart ∧ (tagFrame 0x100 1).data.d0 = ref.tagCmdStart)
    ∧ (ref.WellFormed ∧ (tagFrame 0x101 2).id = ref.idCmdStop ∧ (tagFrame 0x101 2).data.d0 = ref.tagCmdStop)
    ∧ ((tagFrame 0x100 2).id = ref.idCmdStart ∧ (tagFrame 0x100 2).data.d0 ≠ ref.tagCmdStart)
    ∧ ((tagFrame 0x101 1).id = ref.idCmdStop ∧ (tagFrame 0x101 1).data.d0 ≠ ref.tagCmdStop) := by decide
theorem witness_ackDecoder : State.reset.cfg.WellFormed
    ∧ ((tagFrame 0x300 1).id = ref.idAckStart ∧ (tagFrame 0x300 1).data.d0 = ref.tagAckStartOk)
    ∧ ((tagFrame 0x301 2).id = ref.idAckStop ∧ (tagFrame 0x301 2).data.d0 = ref.tagAckStopOk)
    ∧ ((tagFrame 0x301 0xFF).id = ref.idAckStop ∧ (tagFrame 0x301 0xFF).data.d0 = ref.tagAckError)
    ∧ (¬((tagFrame 0x300 2).id = ref.idAckStart ∧ (tagFrame 0x300 2).data.d0 = ref.tagAckStartOk)
      ∧ ¬((tagFrame 0x300 2).id = ref.idAckStop
        ∧ ((tagFrame 0x300 2).data.d0 = ref.tagAckStopOk ∨ (tagFrame 0x300 2).data.d0 = ref.tagAckError))) := by decide
theorem witness_adcDecoder : State.reset.cfg.WellFormed
    ∧ (tagFrame 0x201 0x30).id ≠ ref.idAdcData
    ∧ (∃ b ∈ (dataFrame 0x30 0x34 0x35 0x2F).data.bytes, b.toNat < ref.digitBase.toNat)
    ∧ (∃ b ∈ (dataFrame 0x30 0x34 0x35 0x3A).data.bytes, ref.digitBase.toNat + 9 < b.toNat)
    ∧ (dataFrame 0x34 0x30 0x39 0x35).id = ref.idAdcData
    ∧ (∀ b ∈ (dataFrame 0x34 0x30 0x39 0x35).data.bytes,
        ref.digitBase.toNat ≤ b.toNat ∧ b.toNat ≤ ref.digitBase.toNat + 9)
    ∧ (∀ b ∈ (dataFrame 0x34 0x30 0x39 0x36).data.bytes,
        ref.digitBase.toNat ≤ b.toNat ∧ b.toNat ≤ ref.digitBase.toNat + 9)
    ∧ spelled (dataFrame 0x34 0x30 0x39 0x35) = 4095 ∧ spelled (dataFrame 0x34 0x30 0x39 0x36) = 4096 := by decide
theorem witness_enqueue : ((withQueue .hub (ring 3 3 8 0 frameA)).queue .hub).count.val = 8
    ∧ ((withQueue .hub (ring 2 3 7 0 frameA)).queue .hub).count.val < 8 ∧ (State.reset.queue .hub).count.val < 8 := by decide
theorem witness_dequeue : (State.reset.queue .sampler).count.val = 0
    ∧ 0 < ((withQueue .sampler (ring 1 0 1 0 frameA)).queue .sampler).count.val
    ∧ 0 < ((withQueue .sampler (ring 3 3 8 0 frameA)).queue .sampler).count.val := by decide
theorem witness_queueRing : State.reset.smp.q.Ring ∧ State.reset.hub.q.Ring ∧ (ring 3 3 8 0 frameA).Ring
    ∧ (ring 3 3 0 0 frameA).Ring ∧ 7 < (ring 3 3 8 0 frameA).count.val
    ∧ (step fifoRun).casesOn (fun t => t.hub.q.count.val = 1) (fun _ => False) (fun _ => False) :=
  ⟨by decide, by decide, by decide, by decide, by decide, rfl⟩
theorem witness_fifo : (fifoRun.queue .hub).Ring ∧ (∀ p ∈ trace 2 fifoRun, resets .hub p = false)
    ∧ (fifoRun.queue .hub).contents = [] ∧ ((trace 2 fifoRun).flatMap (taken .hub))[0]? = some frameA := by decide
theorem witness_start : (withMode .idle 0).smp.mode = .idle ∧ (withMode .sampling 0).smp.mode ≠ .idle
    ∧ (withMode .error 0).smp.mode ≠ .idle := by decide
theorem witness_stop : (withMode .sampling 5).smp.mode = .sampling ∧ (withMode .idle 5).smp.mode = .idle
    ∧ ((withMode .error 5).smp.mode = .error ∧ (withMode .error 5).cfg.ackOnStopInError = none)
    ∧ ({ withMode .error 5 with cfg := { ref with ackOnStopInError := some .error } } : State).cfg.ackOnStopInError
      = some .error := by decide
theorem witness_tick : (withMode .idle 0).smp.mode ≠ .sampling
    ∧ (withInputs (withMode .sampling 5) ⟨.ok, .err ⟨0⟩, false, 0⟩).inputs.analog = .err ⟨0⟩
    ∧ (withInputs (withMode .sampling 5) ⟨.ok, .ok 4096, false, 0⟩).inputs.analog = .ok 4096
    ∧ sampledOnce.cfg.WellFormed ∧ sampledOnce.smp.mode = .sampling ∧ sampledOnce.inputs.analog = .ok 4095 := by decide
theorem witness_samplerDrain : State.reset.smp.q.count.val = 0
    ∧ (∃ q, (ring 1 0 1 0 (tagFrame 0x100 1)).deq = some (tagFrame 0x100 1, q))
    ∧ decCmd ref (tagFrame 0x200 1) = .error .malformedFrame ∧ decCmd ref (tagFrame 0x100 1) = .ok .start
    ∧ decCmd ref (tagFrame 0x101 2) = .ok .stop ∧ decCmd ref (tagFrame 0x100 2) = .ok (.unrecognised 0x100 2) :=
  ⟨by decide, ⟨_, rfl⟩, rfl, rfl, rfl, rfl⟩
theorem witness_drainRuns : State.reset.cfg.WellFormed
    ∧ (∃ q, ((withQueue .hub (ring 1 0 1 0 (tagFrame 0x100 1))).queue .hub).deq = some (tagFrame 0x100 1, q))
    ∧ ref.instrOfFrame (tagFrame 0x100 1) = .ok (.cmdStart 8 Reserved.zero)
    ∧ owner (.cmdStart 8 Reserved.zero) = some .sampler ∧ owner (.cmdStart 8 Reserved.zero) ≠ some .hub
    ∧ ref.instrOfFrame (tagFrame 0x300 2) = .error .malformedFrame :=
  ⟨by decide, ⟨_, rfl⟩, rfl, rfl, by decide, rfl⟩
theorem witness_dataFrames : sampledOnce.cfg.WellFormed
    ∧ Next .smpTick sampledOnce fun t => .tx (dataFrame 0x34 0x30 0x39 0x35) ∈ t.outputs :=
  ⟨by decide, _, rfl, by decide⟩
theorem witness_oneTransmission : Next (.hubPress .one) State.reset fun t => (t.outputs.filter isTx).length = 1 :=
  ⟨_, rfl, by decide⟩
theorem witness_error : (withMode .error 5).smp.mode = .error ∧ State.reset.smp.mode ≠ .error
    ∧ Stepped ((withMode .error 5).placeEvent (.op 0x0B)) (fun t => t.smp.mode = .error)
    ∧ (withAgenda (withMode .error 5) [.op 0x18]).current = some (.reset .sampler) :=
  ⟨by decide, by decide, ⟨_, rfl, rfl⟩, rfl⟩
theorem witness_sampleCounter : ∀ p ∈ trace 1 (withAgenda (withMode .sampling 5) [.op 0x0E]), resets .sampler p = false := by
  decide
theorem witness_repeatedStops : stopRun.cfg.WellFormed ∧ stopRun.InRun ∧ stopRun.smp.mode ≠ .error ∧ stopRun.smp.q.Ring
    ∧ stopRun.smp.q.contents = [tagFrame 0x101 0x02] ∧ decCmd ref (tagFrame 0x101 0x02) = .ok .stop
    ∧ decode ref (.op 0x0A) = .ok .smpDrain ∧ decode ref (.op 0x1018020000000000000009) = .ok (.smpRx (tagFrame 0x101 0x02))
    ∧ (trace 3 stopRun).map (fun p => (p.1.smp.mode, p.1.smp.q.count.val)) = [(.sampling, 1), (.idle, 0), (.idle, 1)] :=
  ⟨by decide, by decide, by decide, by decide, by decide, rfl, rfl, rfl, by decide⟩
theorem witness_poll :
    (true ≠ (⟨false, false, 0⟩ : ButtonState).lastRawSample)
    ∧ (false = (⟨false, false, 0⟩ : ButtonState).lastRawSample)
    ∧ ((⟨false, true, 2⟩ : ButtonState).debounceCounter ≠ 0 ∧ (⟨false, true, 2⟩ : ButtonState).debounceCounter ≠ 1)
    ∧ ((⟨true, true, 1⟩ : ButtonState).debounceCounter = 1 ∧ (⟨true, true, 1⟩ : ButtonState).currentPressed = true)
    ∧ (withBtn .two ⟨false, true, 1⟩).hub.btn .two = ⟨false, true, 1⟩
    ∧ (withBtn .two ⟨true, false, 1⟩).hub.btn .two = ⟨true, false, 1⟩ := by decide
theorem witness_debounceCounter : Next (.btnPoll .one) (withBtn .one ⟨false, true, 3⟩)
      (fun t => (t.hub.btn .one).debounceCounter.toNat ≤ ref.debounceTicks.toNat)
    ∧ ({ State.reset with cfg := { ref with debounceTicks := 0 } } : State).cfg.debounceTicks = 0
    ∧ (State.reset.hub.btn .one).debounceCounter = 0 := ⟨⟨_, rfl, by decide⟩, by decide, by decide⟩
theorem witness_counting : ref.WellFormed ∧ (pollRun ⟨false, false, 0⟩ [true, true, true, true]).InRun
    ∧ (pollRun ⟨false, false, 0⟩ [true, true, true, true]).hub.btn .one = ⟨false, !true, 0⟩
    ∧ (pollRun ⟨false, false, 0⟩ [true, true, true, true]).agenda
      = (List.replicate 4 ⟨.ok, .ok 0, true, 0⟩).map (fun y => ⟨encode ref (.btnPoll .one), y⟩) ++ []
    ∧ (true == pressedLevel ref .one) = true ∧ 4 = ref.debounceTicks.toNat + 1 ∧ 3 ≤ ref.debounceTicks.toNat :=
  ⟨by decide, rfl, by decide, rfl, by decide, by decide, by decide⟩
theorem witness_glitch : ref.WellFormed ∧ (pollRun ⟨false, false, 0⟩ []).InRun ∧ (pollRun ⟨false, false, 0⟩ []).hub.btn .one = ⟨false, false, 0⟩
    ∧ (true == pressedLevel ref .one) = (!false) ∧ (false == pressedLevel ref .one) = false
    ∧ (pollRun ⟨false, false, 0⟩ [true, false, false, false, false]).agenda
      = (⟨.ok, .ok 0, true, 0⟩ :: List.replicate 4 ⟨.ok, .ok 0, false, 0⟩).map
        (fun y => ⟨encode ref (.btnPoll .one), y⟩) ++ []
    ∧ ref.debounceTicks.toNat + 1 ≤ 4 := ⟨by decide, rfl, by decide, by decide, by decide, rfl, by decide⟩
theorem witness_press : Next (.btnPoll .one) (withInputs (withBtn .one ⟨false, true, 1⟩) ⟨.ok, .ok 0, true, 0⟩)
      (fun t => .press .one ∈ t.outputs ∧ .tx (tagFrame 0x100 1) ∈ t.outputs)
    ∧ level (.btnPoll .one) = .top ∧ owner (.btnPoll .one) = some .hub := ⟨⟨_, rfl, by decide⟩, rfl, rfl⟩
theorem witness_data : State.reset.cfg.dataText = none
    ∧ ({ State.reset with cfg := { ref with dataText := some 0 } } : State).cfg.dataText = some 0 := by decide
theorem witness_query : (withCache ⟨456, false, 1000⟩ 1000).hub.cache.validFlag = false
    ∧ (withCache ⟨456, true, 1000⟩ 1000).hub.cache.validFlag = true
    ∧ (withCache ⟨456, true, 1000⟩ 1000).hub.cache.lastReceivedTimestamp ≤ (withCache ⟨456, true, 1000⟩ 1000).inputs.now := by
  decide
theorem witness_hubDrain : State.reset.hub.q.count.val = 0 ∧ State.reset.cfg.WellFormed
    ∧ (∃ q, (ring 1 0 1 0 (tagFrame 0x301 2)).deq = some (tagFrame 0x301 2, q))
    ∧ decAdc ref (dataFrame 0x34 0x30 0x39 0x35) = .ok 4095 ∧ decAck ref (tagFrame 0x301 2) = .ok .stopOk
    ∧ decAdc ref (tagFrame 0x100 1) = .error .malformedFrame ∧ decAck ref (tagFrame 0x100 1) = .error .malformedFrame :=
  ⟨by decide, by decide, ⟨_, rfl⟩, rfl, rfl, rfl, rfl⟩
theorem witness_cache : ∀ p ∈ trace 4 (withAgenda State.reset [.op 0x2008303030303034353613, .op 0x14, .op 0x3018020000000000000013, .op 0x14]), resets .hub p = false := by decide
theorem witness_oneText : Next (.hubAck .error) State.reset (fun t => t.result = some (.acked .error))
    ∧ Next .hubDrain (withQueue .hub (ring 1 0 1 0 (tagFrame 0x100 1))) (fun t => t.result = some .discarded) :=
  ⟨⟨_, rfl, rfl⟩, ⟨_, rfl, by decide⟩⟩
theorem witness_stepRuns : State.reset.cfg.WellFormed ∧ State.reset.InRun ∧ State.reset.agenda = []
    ∧ decode ref (.op 0x0E) = .ok .smpTick ∧ level .smpTick = .top
    ∧ (State.reset.placeEvent (.wire 0x7FF80100000000000000)).bench = some ⟨.wire 0x7FF80100000000000000, Inputs.atReset⟩
    ∧ decode ref (.wire 0x7FF80100000000000000) = .error .malformedFrame :=
  ⟨by decide, rfl, rfl, rfl, rfl, rfl, rfl⟩
theorem witness_refuses : (withAgenda State.reset [.op 0x07]).InRun ∧ Stepped (withAgenda State.reset [.op 0x0E]) State.InRun
    ∧ (withAgenda State.reset [.op 0x0E]).current = some .smpTick
    ∧ (∀ e ∈ (withAgenda State.reset [.op 0x0E]).agenda, ∃ i, decode ref e.word = .ok i ∧ level i = .top) :=
  ⟨rfl, ⟨_, rfl, rfl⟩, rfl, by simp [withAgenda]; exact ⟨_, rfl, rfl⟩⟩
theorem witness_reception : fifoRun.InRun ∧ Stepped fifoRun (fun t => (t.queue .hub).head ≠ (fifoRun.queue .hub).head)
    ∧ timedRun.InRun ∧ Stepped timedRun (fun t => (t.queue .hub).tail ≠ (timedRun.queue .hub).tail) :=
  ⟨rfl, ⟨_, rfl, by decide⟩, rfl, ⟨_, rfl, by decide⟩⟩
theorem witness_modeChange : stopRun.InRun ∧ Stepped stopRun (fun t => t.smp.mode ≠ stopRun.smp.mode) :=
  ⟨rfl, _, rfl, by decide⟩
theorem witness_time : timedRun.InRun ∧ timedRun.TimeNonDecreasing ∧ timedRun.times = [1000, 2999]
    ∧ Stepped timedRun (fun t => t.hub.cache = ⟨456, true, 1000⟩ ∧ t.TimeNonDecreasing ∧ t.current = some .hubQuery
      ∧ Stepped t fun u => u.result = some (.receiving true)) :=
  ⟨rfl, by decide, by decide, _, rfl, by decide, by decide, rfl, _, rfl, by decide⟩
theorem witness_placed : State.reset.cfg.WellFormed ∧ (Instr.encAdc 4096).wf State.reset.cfg = true := by decide
theorem witness_nodes : Next .smpStart State.reset (fun t => t.smp ≠ State.reset.smp) ∧ owner .smpStart ≠ some .hub
    ∧ Next .hubEdge State.reset (fun t => t.hub = State.reset.hub) ∧ owner (.encAdc 0) ≠ some .hub :=
  ⟨⟨_, rfl, by decide⟩, by decide, ⟨_, rfl, rfl⟩, by decide⟩
theorem witness_nonInterference :
    Next .smpStart State.reset (fun t => t.smp.mode = .sampling)
    ∧ Next .smpStart (withCache ⟨456, true, 1000⟩ 0) (fun t => t.smp.mode = .sampling)
    ∧ State.reset.cfg = (withCache ⟨456, true, 1000⟩ 0).cfg ∧ State.reset.inputs = (withCache ⟨456, true, 1000⟩ 0).inputs
    ∧ State.reset.draws = (withCache ⟨456, true, 1000⟩ 0).draws ∧ State.reset.smp = (withCache ⟨456, true, 1000⟩ 0).smp
    ∧ State.reset.hub = (withMode .error 5).hub ∧ owner .hubQuery = some .hub ∧ owner (.encAdc 0) = none :=
  ⟨⟨_, rfl, rfl⟩, ⟨_, rfl, rfl⟩, rfl, rfl, rfl, rfl, rfl, rfl, rfl⟩
theorem witness_interrupts : context .smpTick = some .interrupt
    ∧ Next .smpTick sampledOnce (fun t => t.smp.sampleCounter = 6)
    ∧ context (reception frameA .sampler) = some .interrupt ∧ Next (.smpRx frameA) State.reset (fun t => t.smp.q.count = 1)
    ∧ (State.reset.queue .sampler).count.val < 8 ∧ context (reception frameA .hub) = some .interrupt
    ∧ ((withQueue .hub (ring 3 3 8 0 frameA)).queue .hub).count.val = 8
    ∧ Next (.hubRx frameA) (withQueue .hub (ring 3 3 8 0 frameA)) (fun t => t.hub.q = ring 3 3 8 0 frameA)
    ∧ context .hubEdge = some .interrupt :=
  ⟨rfl, ⟨_, rfl, by decide⟩, rfl, ⟨_, rfl, by decide⟩, by decide, rfl, by decide, ⟨_, rfl, by decide⟩, rfl⟩
theorem witness_invariant : State.reset.Inv ∧ (withBtn .one ⟨false, true, 3⟩).Inv
    ∧ Stepped (State.reset.placeEvent (.op 0x0B)) (fun t => t.smp.mode = .sampling) :=
  ⟨by decide, by decide, _, rfl, rfl⟩
theorem witness_same : State.Same (withCache ⟨456, false, 1000⟩ 0) (withCache ⟨7, false, 0⟩ 0)
    ∧ State.Same (withQueue .hub (ring 1 1 0 5 frameA)) (withQueue .hub (ring 1 1 0 6 frameA)) := by decide

end Sys2Proof.Tests
end

section
/-! PROOFS of the family 30_encoding.md: what `ENC.ADC` answers at the configured bound, the digit bytes of a small number, O8. -/

namespace Sys2Proof

/-! ### Digit bytes of a small number -/

/-- The leading digit is the whole quotient: a number below `10^(k+1)` has nothing above weight `10^k` (R94). -/
theorem digitByte_toNat_of_lt (c : Config) (hc : c.DigitBaseFits) {v k : Nat} (hv : v < 10 ^ (k + 1)) :
    (c.digitByte v k).toNat = c.digitBase.toNat + v / 10 ^ k := by
  have hq : v / 10 ^ k < 10 := Nat.div_lt_of_lt_mul (by rwa [← Nat.pow_succ])
  rw [digitByte_toNat c hc, Nat.mod_eq_of_lt hq]

/-- The padding of R95: a number below `10^k` has the digit byte of zero at weight `10^k`. -/
theorem digitByte_eq_digitBase_of_lt (c : Config) {v k : Nat} (hv : v < 10 ^ k) : c.digitByte v k = c.digitBase := by
  simp [Config.digitByte, Nat.div_eq_of_lt hv]

/-- A number of at most four digits is padded with zeros at every weight from `10^4` on (R95). -/
theorem digitByte_eq_digitBase_of_le_4095 (c : Config) {v k : Nat} (hv : v ≤ 4095) (hk : 4 ≤ k) :
    c.digitByte v k = c.digitBase := by
  have hpow : 10 ^ 4 ≤ 10 ^ k := Nat.pow_le_pow_right (by decide) hk
  exact digitByte_eq_digitBase_of_lt c (by omega)

/-! ### The two answers of `ENC.ADC` -/

/-- The refusal of R132, at the value R7 gives `ADC_MAX`. -/
theorem encAdc_eq_error_of_gt (c : Config) (hmax : c.AdcMaxIs4095) {v : Nat} (hv : 4095 < v) :
    encAdc c v = .error (.outOfRange v) := by
  rcases Machine.encAdc_cases c v with ⟨-, herr⟩ | ⟨hle, -⟩
  · exact herr
  · have : c.adcMax = 4095 := hmax
    omega

/-- The frame of R132, at the value R7 gives `ADC_MAX`. -/
theorem encAdc_eq_ok_of_le (c : Config) (hmax : c.AdcMaxIs4095) {v : Nat} (hv : v ≤ 4095) :
    encAdc c v = .ok ⟨c.idAdcData, 8, c.adcPayload v⟩ := by
  rcases Machine.encAdc_cases c v with ⟨hlt, -⟩ | ⟨-, hok⟩
  · have : c.adcMax = 4095 := hmax
    omega
  · exact hok

/-- Settles O8: above 4095 the guard refuses; up to 4095 four digits spell the number, and the upper four bytes are padding. -/
theorem adcPayloadIsTheNumeral : Obligations.AdcPayloadIsTheNumeral := by
  intro c hwf v
  obtain ⟨-, -, -, -, -, hbase, hmax, -⟩ := hwf
  refine ⟨fun hv => encAdc_eq_error_of_gt c hmax hv, fun hv => ⟨_, encAdc_eq_ok_of_le c hmax hv, rfl, rfl, ?_⟩⟩
  have padding (k : Nat) (hk : 4 ≤ k) : c.digitByte v k = c.digitBase := digitByte_eq_digitBase_of_le_4095 c hv hk
  have thousands : (c.digitByte v 3).toNat = c.digitBase.toNat + v / 1000 := digitByte_toNat_of_lt c hbase (by omega)
  have units : (c.digitByte v 0).toNat = c.digitBase.toNat + v % 10 := by
    simpa using digitByte_toNat c hbase v 0
  exact ⟨padding 7 (by decide), padding 6 (by decide), padding 5 (by decide), padding 4 (by decide), thousands,
    digitByte_toNat c hbase v 2, digitByte_toNat c hbase v 1, units⟩

end Sys2Proof
end

section
/-! PROOFS of the family 40_codec.md: what a list of digit bytes spells, the causes of R135, the codec's answers as whole states,
O10 and O14. -/

namespace Sys2Proof

/-! ### What digit bytes spell -/

/-- A digit byte (R94, R96): it carries one of the digits 0 to 9. -/
abbrev Config.IsDigitByte (c : Config) (b : Byte) : Prop :=
  c.digitBase.toNat ≤ b.toNat ∧ b.toNat ≤ c.digitBase.toNat + 9

/-- One digit more behind the numeral of `acc` (R96). -/
def Config.appendDigit (c : Config) (acc : Nat) (b : Byte) : Nat := acc * 10 + (b.toNat - c.digitBase.toNat)

/-- The number the eight bytes of a payload spell, if they are digit bytes (R96); `assemble_eq_some_iff` ties it to the model. -/
def Config.spelledBy (c : Config) (p : Payload) : Nat := p.bytes.foldl c.appendDigit 0

/-- R96's number as the sum over the weights, most significant digit first. -/
theorem Config.spelledBy_eq_sum (c : Config) (p : Payload) :
    c.spelledBy p =
      (p.d0.toNat - c.digitBase.toNat) * 10 ^ 7 + (p.d1.toNat - c.digitBase.toNat) * 10 ^ 6
        + (p.d2.toNat - c.digitBase.toNat) * 10 ^ 5 + (p.d3.toNat - c.digitBase.toNat) * 10 ^ 4
        + (p.d4.toNat - c.digitBase.toNat) * 10 ^ 3 + (p.d5.toNat - c.digitBase.toNat) * 10 ^ 2
        + (p.d6.toNat - c.digitBase.toNat) * 10 + (p.d7.toNat - c.digitBase.toNat) := by
  simp only [Config.spelledBy, Payload.bytes, List.foldl_cons, List.foldl_nil, Config.appendDigit]
  ring

/-- Exactly the bytes that are no digit bytes carry no digit (R96). -/
theorem digitOf_eq_none_iff (c : Config) (b : Byte) : c.digitOf b = none ↔ ¬ c.IsDigitByte b := by
  rw [Option.eq_none_iff_forall_ne_some]
  simp only [ne_eq, digitOf_eq_some]
  exact ⟨fun h hb => h _ ⟨hb, rfl⟩, fun h _ hd => h hd.1⟩

/-- Bytes spell a number exactly when all of them are digit bytes, and it is the one their digits append to (R96). -/
theorem assemble_eq_some_iff (c : Config) (bs : List Byte) (acc n : Nat) :
    c.assemble bs acc = some n ↔ (∀ b ∈ bs, c.IsDigitByte b) ∧ n = bs.foldl c.appendDigit acc := by
  induction bs generalizing acc with
  | nil => simp [Config.assemble, eq_comm]
  | cons b bs ih =>
    rw [Config.assemble]
    cases hd : c.digitOf b with
    | none =>
      have hb : ¬ c.IsDigitByte b := (digitOf_eq_none_iff c b).1 hd
      simp [hb]
    | some d =>
      obtain ⟨hb, rfl⟩ := (digitOf_eq_some c b d).1 hd
      rw [List.forall_mem_cons, and_iff_right hb]
      exact ih _

/-! ### The answers of `DEC.ADC`, by the causes of R135 -/

/-- A byte that is no digit byte is refused, whatever the identifier. -/
theorem decAdc_of_not_digitByte (c : Config) (f : Frame) {b : Byte} (hmem : b ∈ f.data.bytes) (hb : ¬ c.IsDigitByte b) :
    decAdc c f = .error .malformedFrame := by
  have hnone : c.assemble f.data.bytes 0 = none :=
    Option.eq_none_iff_forall_ne_some.2 fun n hn => hb (((assemble_eq_some_iff c _ 0 n).1 hn).1 b hmem)
  simp [decAdc, hnone]

/-- Eight digit bytes on the data identifier are judged by the number they spell alone. -/
theorem decAdc_of_digitBytes (c : Config) (f : Frame) (hid : f.id = c.idAdcData)
    (hdigits : ∀ b ∈ f.data.bytes, c.IsDigitByte b) :
    decAdc c f = if c.adcMax < c.spelledBy f.data then .error .malformedFrame
      else .ok (BitVec.ofNat 12 (c.spelledBy f.data)) := by
  have hsome : c.assemble f.data.bytes 0 = some (c.spelledBy f.data) :=
    (assemble_eq_some_iff c _ 0 _).2 ⟨hdigits, rfl⟩
  simp [decAdc, hid, hsome]

namespace Machine

/-! ### The answers of the codec operations as whole states -/

/-- A result alone leaves every field but outputs and result (R14, R130). -/
theorem State.begin_ret_eq (s : State) (r : Result) : s.begin.ret r = { s with outputs := [], result := some r } := rfl

/-- An error is a result as any other (R250). -/
theorem State.begin_raise_eq (s : State) (e : BlockError) :
    s.begin.raise e = { s with outputs := [], result := some (.err e) } := rfl

theorem exec_encCmd_eq (x : Command) (s : State) :
    exec (.encCmd x) s = .next { s with outputs := [], result := some (.frame (encCmd s.cfg x)) } := rfl

theorem exec_encAdc (v : Nat) (s : State) : exec (.encAdc v) s = execEncAdc v s := rfl

theorem exec_decAdc (f : Frame) (s : State) : exec (.decAdc f) s = execDecAdc f s := rfl

theorem exec_encAdc_of_ok {v : Nat} {s : State} {f : Frame} (h : encAdc s.cfg v = .ok f) :
    exec (.encAdc v) s = .next { s with outputs := [], result := some (.frame f) } := by
  simp only [exec_encAdc, execEncAdc, h, State.begin_ret_eq]

theorem exec_encAdc_of_error {v : Nat} {s : State} {e : BlockError} (h : encAdc s.cfg v = .error e) :
    exec (.encAdc v) s = .next { s with outputs := [], result := some (.err e) } := by
  simp only [exec_encAdc, execEncAdc, h, State.begin_raise_eq]

theorem exec_decAdc_of_ok {f : Frame} {s : State} {v : AdcValue} (h : decAdc s.cfg f = .ok v) :
    exec (.decAdc f) s = .next { s with outputs := [], result := some (.value v) } := by
  simp only [exec_decAdc, execDecAdc, h, State.begin_ret_eq]

theorem exec_decAdc_of_error {f : Frame} {s : State} {e : BlockError} (h : decAdc s.cfg f = .error e) :
    exec (.decAdc f) s = .next { s with outputs := [], result := some (.err e) } := by
  simp only [exec_decAdc, execDecAdc, h, State.begin_raise_eq]

end Machine

/-- Settles O10: the two commands have one frame each; for `ENC.ADC` the frame is the one O8 spells out field by field. -/
theorem commandAndAdcEncodersAnswer : Obligations.CommandAndAdcEncodersAnswer := by
  intro s
  refine ⟨Machine.exec_encCmd_eq .start s, Machine.exec_encCmd_eq .stop s, fun hwf v hv => ?_, fun hwf v hv => ?_⟩
  · exact Machine.exec_encAdc_of_error ((adcPayloadIsTheNumeral s.cfg hwf v).1 hv)
  · obtain ⟨⟨id, dlc, d0, d1, d2, d3, d4, d5, d6, d7⟩, hok, rfl, rfl, rfl, rfl, rfl, rfl, hdigits⟩ :=
      (adcPayloadIsTheNumeral s.cfg hwf v).2 hv
    exact ⟨d4, d5, d6, d7, Machine.exec_encAdc_of_ok hok, hdigits⟩

/-- Settles O14: R135's three causes, and the value otherwise; `n` is the number the payload spells. -/
theorem adcDecoderAnswers : Obligations.AdcDecoderAnswers := by
  intro f s n hwf hn
  obtain ⟨-, -, -, -, -, -, hmax, -⟩ := hwf
  rw [← Config.spelledBy_eq_sum] at hn
  refine ⟨fun hid => Machine.exec_decAdc_of_error (decAdc_of_id s.cfg f hid), fun b hmem hb => ?notDigit,
    fun hid hdigits => ?digits⟩
  case notDigit =>
    exact Machine.exec_decAdc_of_error (decAdc_of_not_digitByte s.cfg f hmem (by omega))
  case digits =>
    have hdec := decAdc_of_digitBytes s.cfg f hid hdigits
    rw [hmax, ← hn] at hdec
    refine ⟨fun hle => Machine.exec_decAdc_of_ok ?_, fun hgt => Machine.exec_decAdc_of_error ?_⟩
    · rw [hdec, if_neg (by omega)]
    · rw [hdec, if_pos hgt]

end Sys2Proof
end

section
/-! PROOFS of the family 41_queue.md: what a successful `ENQ` and `DEQ` leave of the queue, both operations as whole states,
O15 and O17. -/

namespace Sys2Proof

namespace Machine

/-! ### The queue after a successful operation -/

/-- With room `ENQ` succeeds (R166). -/
theorem Queue.exists_enq_of_lt {q : Queue} (f : Frame) (hroom : q.count.val < 8) : ∃ r, q.enq f = some r :=
  ⟨_, (Queue.enq_eq_some q _ f).2 ⟨hroom, rfl⟩⟩

/-- On a queue that is not empty `DEQ` succeeds, with the frame at the tail (R161, R166). -/
theorem Queue.exists_deq_of_pos {q : Queue} (hpos : 0 < q.count.val) : ∃ r, q.deq = some (q.memRead q.tail, r) :=
  ⟨_, (Queue.deq_eq_some q _ _).2 ⟨hpos, rfl, rfl⟩⟩

/-- The slots after `ENQ`: the arriving frame at the old head, every other slot as it was (R160). -/
theorem Queue.memRead_of_enq {q r : Queue} {f : Frame} (h : q.enq f = some r) :
    r.memRead q.head = f ∧ ∀ k : Fin 8, k ≠ q.head → r.memRead k = q.memRead k := by
  obtain ⟨-, rfl⟩ := (Queue.enq_eq_some q r f).1 h
  exact ⟨Queue.memRead_memWrite_same q q.head f, fun k hk => Queue.memRead_memWrite_other q q.head k f hk⟩

/-- The indices and the count after `ENQ`; the count does not wrap, as there was room (R160, R168). -/
theorem Queue.indices_of_enq {q r : Queue} {f : Frame} (h : q.enq f = some r) :
    r.head.val = (q.head.val + 1) % 8 ∧ r.tail = q.tail ∧ r.count.val = q.count.val + 1 := by
  obtain ⟨hroom, rfl⟩ := (Queue.enq_eq_some q r f).1 h
  exact ⟨Fin8.val_succ q.head, rfl, Fin9.val_succ q.count hroom⟩

/-- `DEQ` clears no slot, not even the one it read (R79, R161). -/
theorem Queue.memRead_of_deq {q r : Queue} {f : Frame} (h : q.deq = some (f, r)) (k : Fin 8) :
    r.memRead k = q.memRead k := by
  obtain ⟨-, -, rfl⟩ := (Queue.deq_eq_some q r f).1 h
  rfl

/-- The indices and the count after `DEQ`; the count does not wrap, as it was above 0 (R161, R168). -/
theorem Queue.indices_of_deq {q r : Queue} {f : Frame} (h : q.deq = some (f, r)) :
    r.tail.val = (q.tail.val + 1) % 8 ∧ r.head = q.head ∧ r.count.val + 1 = q.count.val := by
  obtain ⟨hpos, -, rfl⟩ := (Queue.deq_eq_some q r f).1 h
  exact ⟨Fin8.val_succ q.tail, rfl, Fin9.val_pred q.count hpos⟩

/-! ### `ENQ` and `DEQ` as whole states -/

/-- An operation that writes one queue and answers leaves every other field but outputs and result (R14). -/
theorem State.begin_setQueue_ret_eq (s : State) (n : Node) (q : Queue) (r : Result) :
    (s.begin.setQueue n q).ret r = { (s.setQueue n q) with outputs := [], result := some r } := by
  cases n <;> rfl

theorem exec_enq (n : Node) (f : Frame) (s : State) : exec (.enq n f) s = .next (enqueueAt n f s.begin) := rfl

theorem exec_deq (n : Node) (s : State) : exec (.deq n) s = execDeq n s := rfl

theorem exec_enq_of_none {n : Node} {f : Frame} {s : State} (h : (s.queue n).enq f = none) :
    exec (.enq n f) s = .next { s with outputs := [], result := some (.enqueued false) } := by
  simp only [exec_enq, enqueueAt, State.queue_begin, h, State.begin_ret_eq]

theorem exec_enq_of_some {n : Node} {f : Frame} {s : State} {q : Queue} (h : (s.queue n).enq f = some q) :
    exec (.enq n f) s = .next { (s.setQueue n q) with outputs := [], result := some (.enqueued true) } := by
  simp only [exec_enq, enqueueAt, State.queue_begin, h, State.begin_setQueue_ret_eq]

theorem exec_deq_of_none {n : Node} {s : State} (h : (s.queue n).deq = none) :
    exec (.deq n) s = .next { s with outputs := [], result := some (.dequeued none) } := by
  simp only [exec_deq, execDeq, h, State.begin_ret_eq]

theorem exec_deq_of_some {n : Node} {s : State} {f : Frame} {q : Queue} (h : (s.queue n).deq = some (f, q)) :
    exec (.deq n) s = .next { (s.setQueue n q) with outputs := [], result := some (.dequeued (some f)) } := by
  simp only [exec_deq, execDeq, h, State.begin_setQueue_ret_eq]

end Machine

/-- Settles O15: a full queue refuses the arriving frame; with room the frame stands at the old head of the queue left. -/
theorem enqueueStoresOrDrops : Obligations.EnqueueStoresOrDrops := by
  intro n f s
  refine ⟨fun hfull => ?full, fun hroom => ?room⟩
  case full => exact Machine.exec_enq_of_none ((Machine.Queue.enq_eq_none _ f).2 hfull)
  case room =>
    obtain ⟨q, hq⟩ := Machine.Queue.exists_enq_of_lt f hroom
    obtain ⟨hstored, hothers⟩ := Machine.Queue.memRead_of_enq hq
    exact ⟨q, Machine.exec_enq_of_some hq, hstored, hothers, Machine.Queue.indices_of_enq hq⟩

/-- Settles O17: an empty queue answers none; otherwise the frame at the old tail is the answer and the slots stay. -/
theorem dequeueTakesFromTail : Obligations.DequeueTakesFromTail := by
  intro n s
  refine ⟨fun hempty => ?empty, fun hpos => ?taken⟩
  case empty => exact Machine.exec_deq_of_none ((Machine.Queue.deq_eq_none _).2 hempty)
  case taken =>
    obtain ⟨q, hq⟩ := Machine.Queue.exists_deq_of_pos hpos
    exact ⟨q, Machine.exec_deq_of_some hq, Machine.Queue.memRead_of_deq hq, Machine.Queue.indices_of_deq hq⟩

end Sys2Proof
end

section
/-! PROOFS of the family 42_sampler.md: an operation that only transmits and answers as a whole state, the Error acknowledge's
identifier, O24. -/

namespace Sys2Proof

/-- The Error acknowledge has no identifier of its own: it reuses the Stop acknowledge's (R106). -/
theorem encAck_error_id (c : Config) : (encAck c .error).id = c.idAckStop := rfl

namespace Machine

/-! ### The sampler's handlers as whole states -/

/-- A transmission and an answer alone leave every field but outputs and result (R14, R269). -/
theorem State.begin_transmit_ret_eq (s : State) (f : Frame) (r : Result) :
    (s.begin.transmit f).ret r = { s with outputs := [.tx f], result := some r } := rfl

theorem exec_smpUnknown (s : State) : exec .smpUnknown s = .next (unknownCommand s.begin) := rfl

/-- The handler reads neither mode nor counter, so no split on the sampler's state is met (R185). -/
theorem exec_smpUnknown_eq (s : State) :
    exec .smpUnknown s = .next { s with
      outputs := [.tx (encAck s.cfg .error)], result := some (.rejected s.inputs.tx) } := by
  simp only [exec_smpUnknown, unknownCommand, State.begin_transmit_ret_eq, State.begin_cfg, State.begin_inputs]

end Machine

/-- Settles O24: the frame's identifier is R106's, the next state that of the one handler for every mode. -/
theorem unknownCommandIsAnsweredWithError : Obligations.UnknownCommandIsAnsweredWithError :=
  fun s => ⟨encAck_error_id s.cfg, Machine.exec_smpUnknown_eq s⟩

end Sys2Proof
end

section
/-! PROOFS of the family 43_debounce.md: the filter's answer by the cases of R210, a poll as a whole state by the event it
confirms, presses and releases as whole states, O35 and O36. -/

namespace Sys2Proof

namespace Machine

/-! ### The filter, case by case -/

section
variable {window : BitVec 32} {raw : Bool} {x : ButtonState}

/-- A change of the raw level starts the window, also where the counter was running (R210). -/
theorem ButtonState.poll_of_changed (h : raw ≠ x.lastRawSample) :
    x.poll window raw = (⟨x.currentPressed, raw, window⟩, none) := by
  simpa [h] using x.poll_cases window raw

/-- Once the counter is zero, further polls at the same level do nothing (R210). -/
theorem ButtonState.poll_of_atRest (h : raw = x.lastRawSample) (hzero : x.debounceCounter = 0) :
    x.poll window raw = (x, none) := by
  simpa [h, hzero] using x.poll_cases window raw

/-- A running counter goes down by one; no event before it reaches zero, nor then if the stable level is the confirmed one. -/
theorem ButtonState.poll_of_unconfirmed (h : raw = x.lastRawSample) (hrunning : x.debounceCounter ≠ 0)
    (hnone : x.debounceCounter ≠ 1 ∨ x.currentPressed = raw) :
    x.poll window raw = (⟨x.currentPressed, raw, x.debounceCounter - 1⟩, none) := by
  rcases x.poll_cases window raw with
    ⟨hne, -⟩ | ⟨-, hzero, -⟩ | ⟨-, -, -, hpoll⟩ | ⟨-, hone, hcur, hraw, -⟩ | ⟨-, hone, hcur, hraw, -⟩
  · exact absurd h hne
  · exact absurd hzero hrunning
  · exact hpoll
  · simp [hone, hcur, hraw] at hnone
  · simp [hone, hcur, hraw] at hnone

/-- The last count at a pressed level confirms a press, if the button was released (R210). -/
theorem ButtonState.poll_of_confirmedPress (h : raw = x.lastRawSample) (hone : x.debounceCounter = 1)
    (hreleased : x.currentPressed = false) (hraw : raw = true) :
    x.poll window raw = (⟨true, true, 0⟩, some .press) := by
  simpa [← h, hone, hreleased, hraw] using x.poll_cases window raw

/-- The last count at a released level confirms a release, if the button was pressed (R210). -/
theorem ButtonState.poll_of_confirmedRelease (h : raw = x.lastRawSample) (hone : x.debounceCounter = 1)
    (hpressed : x.currentPressed = true) (hraw : raw = false) :
    x.poll window raw = (⟨false, false, 0⟩, some .release) := by
  simpa [← h, hone, hpressed, hraw] using x.poll_cases window raw

end

/-! ### A poll as a whole state, by the event it confirms -/

/-- Writing back the record a button has changes nothing. -/
@[simp] theorem Hub.setBtn_btn (h : Hub) (b : Button) : h.setBtn b (h.btn b) = h := by cases b <;> rfl

section
variable {b : Button} {s : State} {y : ButtonState}

theorem pollButton_of_none (h : (s.hub.btn b).poll s.cfg.debounceTicks (s.rawPressed b) = (y, none)) :
    pollButton b s = ({ s with hub := s.hub.setBtn b y } : State).ret .noEvent := by
  simpa [h] using pollButton_cases b s

theorem pollButton_of_press (h : (s.hub.btn b).poll s.cfg.debounceTicks (s.rawPressed b) = (y, some .press)) :
    pollButton b s = ((({ s with hub := s.hub.setBtn b y } : State).emit (.press b)).transmit
      (encCmd s.cfg (buttonCommand b))).ret (.pressed b s.inputs.tx) := by
  simpa [h] using pollButton_cases b s

theorem pollButton_of_release (h : (s.hub.btn b).poll s.cfg.debounceTicks (s.rawPressed b) = (y, some .release)) :
    pollButton b s = (({ s with hub := s.hub.setBtn b y } : State).emit (.release b)).ret (.released b) := by
  simpa [h] using pollButton_cases b s

theorem exec_btnPoll_of_none (h : (s.hub.btn b).poll s.cfg.debounceTicks (s.rawPressed b) = (y, none)) :
    exec (.btnPoll b) s = .next { s with hub := s.hub.setBtn b y, outputs := [], result := some .noEvent } :=
  congrArg Host.Outcome.next (pollButton_of_none (s := s.begin) h)

/-- The press and its command frame stand in the outputs of the one step (R211, R212). -/
theorem exec_btnPoll_of_press (h : (s.hub.btn b).poll s.cfg.debounceTicks (s.rawPressed b) = (y, some .press)) :
    exec (.btnPoll b) s = .next { s with
      hub := s.hub.setBtn b y
      outputs := [.press b, .tx (encCmd s.cfg (buttonCommand b))]
      result := some (.pressed b s.inputs.tx) } :=
  congrArg Host.Outcome.next (pollButton_of_press (s := s.begin) h)

/-- The release stands alone in the outputs: it commands nothing (R213). -/
theorem exec_btnPoll_of_release (h : (s.hub.btn b).poll s.cfg.debounceTicks (s.rawPressed b) = (y, some .release)) :
    exec (.btnPoll b) s = .next { s with
      hub := s.hub.setBtn b y, outputs := [.release b], result := some (.released b) } :=
  congrArg Host.Outcome.next (pollButton_of_release (s := s.begin) h)

end

/-! ### `HUB.PRESS` and `HUB.RELEASE` as whole states -/

theorem exec_hubPress (b : Button) (s : State) : exec (.hubPress b) s = .next (pressButton b s.begin) := rfl

theorem exec_hubRelease (b : Button) (s : State) : exec (.hubRelease b) s = .next (releaseButton b s.begin) := rfl

/-- No branch looks at what `transmit` answers: its answer is only carried in the result (R212). -/
theorem exec_hubPress_eq (b : Button) (s : State) :
    exec (.hubPress b) s = .next { s with
      outputs := [.tx (encCmd s.cfg (buttonCommand b))], result := some (.pressed b s.inputs.tx) } := by
  simp only [exec_hubPress, pressButton, State.begin_transmit_ret_eq, State.begin_cfg, State.begin_inputs]

theorem exec_hubRelease_eq (b : Button) (s : State) :
    exec (.hubRelease b) s = .next { s with outputs := [], result := some (.released b) } := by
  simp only [exec_hubRelease, releaseButton, State.begin_ret_eq]

end Machine

/-- Settles O35: each case of the filter names the new record and the event, and the event decides the rest of the poll. -/
theorem pollTable : Obligations.PollTable := by
  rintro b s _ _ rfl rfl
  refine ⟨fun hchanged => ?changed, fun hlast hzero => ?atRest, fun hlast hrunning hnone => ?unconfirmed,
    fun hlast hone hreleased hraw => ?press, fun hlast hone hpressed hraw => ?release⟩
  case changed => exact Machine.exec_btnPoll_of_none (Machine.ButtonState.poll_of_changed hchanged)
  case atRest =>
    have hstep := Machine.exec_btnPoll_of_none (Machine.ButtonState.poll_of_atRest hlast hzero)
    rwa [Machine.Hub.setBtn_btn] at hstep
  case unconfirmed =>
    exact Machine.exec_btnPoll_of_none (Machine.ButtonState.poll_of_unconfirmed hlast hrunning hnone)
  case press =>
    exact Machine.exec_btnPoll_of_press (Machine.ButtonState.poll_of_confirmedPress hlast hone hreleased hraw)
  case release =>
    exact Machine.exec_btnPoll_of_release (Machine.ButtonState.poll_of_confirmedRelease hlast hone hpressed hraw)

/-- Settles O36: the two presses are the one law of `HUB.PRESS` at the two commands of `buttonCommand`. -/
theorem pressSendsReleaseDoesNothing : Obligations.PressSendsReleaseDoesNothing :=
  fun s => ⟨Machine.exec_hubPress_eq .one s, Machine.exec_hubPress_eq .two s, fun b => Machine.exec_hubRelease_eq b s⟩

end Sys2Proof
end

section
/-! PROOFS on event words: the canonical frame word, the operand layouts, the operation words, O3 to O5. -/

namespace Sys2Proof

/-! ### The canonical frame word -/

/-- A slice above the last byte of a word is a slice of the word without it. -/
theorem extract_append_byte {m : Nat} (x : BitVec m) (y : Byte) (k n : Nat) :
    (x ++ y).extractLsb' (k + 8) n = x.extractLsb' k n := extract_append_high x y _ k n (Nat.add_comm k 8)

section
variable (id : CanId) (l : BitVec 4) (d0 d1 d2 d3 d4 d5 d6 d7 : Byte)

theorem extract_canonical_id : (id ++ l ++ d0 ++ d1 ++ d2 ++ d3 ++ d4 ++ d5 ++ d6 ++ d7).extractLsb' 68 11 = id := by
  simp only [extract_append_byte, extract_append_high id l 4 0 11 rfl, BitVec.extractLsb'_eq_self]

theorem extract_canonical_dlc : (id ++ l ++ d0 ++ d1 ++ d2 ++ d3 ++ d4 ++ d5 ++ d6 ++ d7).extractLsb' 64 4 = l := by
  simp only [extract_append_byte, extract_append_low]

theorem extract_canonical_payload :
    Payload.ofWord (id ++ l ++ d0 ++ d1 ++ d2 ++ d3 ++ d4 ++ d5 ++ d6 ++ d7) = ⟨d0, d1, d2, d3, d4, d5, d6, d7⟩ := by
  simp only [Payload.ofWord, extract_append_byte, extract_append_low]

end

theorem Frame.toWord_id (f : Frame) : f.toWord.extractLsb' 68 11 = f.id := extract_canonical_id ..

/-- A declared length is at most 8, so its four bits hold it whole (R21, R90). -/
theorem Frame.toWord_dlc (f : Frame) : (f.toWord.extractLsb' 64 4).toNat = f.dlc.val := by
  have hslice : f.toWord.extractLsb' 64 4 = BitVec.ofNat 4 f.dlc.val := extract_canonical_dlc ..
  have hlen := f.dlc.isLt
  rw [hslice, BitVec.toNat_ofNat, Nat.mod_eq_of_lt (by omega)]

theorem Frame.toWord_payload (f : Frame) : Payload.ofWord f.toWord = f.data := extract_canonical_payload ..

/-- `extract_append_extract` at positions given as numbers. -/
theorem extract_append_extract_of_eq {k : Nat} (w : BitVec k) {m : Nat} (q p n : Nat) (hq : q = p + n) :
    w.extractLsb' q m ++ w.extractLsb' p n = w.extractLsb' p (m + n) := by
  subst hq
  exact extract_append_extract w p

/-- Joining the slices of R90 gives the word back: they cover it without gap or overlap. -/
theorem canonical_of_slices (w : FrameWord) :
    w.extractLsb' 68 11 ++ w.extractLsb' 64 4 ++ w.extractLsb' 56 8 ++ w.extractLsb' 48 8 ++ w.extractLsb' 40 8
      ++ w.extractLsb' 32 8 ++ w.extractLsb' 24 8 ++ w.extractLsb' 16 8 ++ w.extractLsb' 8 8 ++ w.extractLsb' 0 8 = w := by
  rw [extract_append_extract_of_eq w 68 64 4 rfl, extract_append_extract_of_eq w 64 56 8 rfl,
    extract_append_extract_of_eq w 56 48 8 rfl, extract_append_extract_of_eq w 48 40 8 rfl,
    extract_append_extract_of_eq w 40 32 8 rfl, extract_append_extract_of_eq w 32 24 8 rfl,
    extract_append_extract_of_eq w 24 16 8 rfl, extract_append_extract_of_eq w 16 8 8 rfl,
    extract_append_extract_of_eq w 8 0 8 rfl]
  exact BitVec.extractLsb'_eq_self

/-- A word spells a frame exactly when its length field is at most 8 (R21, R274). -/
theorem Frame.ofWord_eq_none (w : FrameWord) : Frame.ofWord w = none ↔ 8 < (w.extractLsb' 64 4).toNat := by
  unfold Frame.ofWord
  split
  case isTrue hlt => simpa using Nat.le_of_lt_succ hlt
  case isFalse hge => simpa using Nat.lt_of_succ_le (Nat.not_lt.1 hge)

theorem Frame.ofWord_toWord (f : Frame) : Frame.ofWord f.toWord = some f := by
  have hlen : (f.toWord.extractLsb' 64 4).toNat < 9 := f.toWord_dlc ▸ f.dlc.isLt
  rw [Frame.ofWord, dif_pos hlen]
  simp only [f.toWord_id, f.toWord_dlc, f.toWord_payload]

theorem Frame.toWord_of_ofWord {w : FrameWord} {f : Frame} (h : Frame.ofWord w = some f) : f.toWord = w := by
  unfold Frame.ofWord at h
  split at h
  · obtain rfl := Option.some.inj h
    simp only [Frame.toWord, Payload.ofWord, BitVec.ofNat_toNat, BitVec.setWidth_eq]
    exact canonical_of_slices w
  · cases h

/-- Settles O4: the slices of R90 read the fields back, and joined they are the word. -/
theorem frameWordLayout : Obligations.FrameWordLayout := by
  refine ⟨fun f => ⟨f.toWord_id, f.toWord_dlc, ?_⟩, Frame.ofWord_toWord, fun w f => Frame.toWord_of_ofWord,
    Frame.ofWord_eq_none⟩
  have hbytes : Payload.ofWord f.toWord = f.data := f.toWord_payload
  simp only [← hbytes, Payload.ofWord, and_self]

/-! ### The number of a frame's word -/

theorem frameOfNat_frameCode (f : Frame) : frameOfNat (frameCode f) = .ok f := by
  unfold frameOfNat frameCode
  rw [if_pos f.toWord.isLt, BitVec.ofNat_toNat, BitVec.setWidth_eq, f.ofWord_toWord]

theorem frameCode_of_frameOfNat {n : Nat} {f : Frame} (h : frameOfNat n = .ok f) : frameCode f = n := by
  unfold frameOfNat at h
  split at h
  · rename_i hlt
    cases hw : Frame.ofWord (BitVec.ofNat 79 n) with
    | none => rw [hw] at h; cases h
    | some g =>
      rw [hw] at h
      obtain rfl := Except.ok.inj h
      rw [frameCode, Frame.toWord_of_ofWord hw, BitVec.toNat_ofNat, Nat.mod_eq_of_lt hlt]
  · cases h

/-! ### The operands above an event code -/

theorem commandOfNat_commandCode (x : Command) : commandOfNat (commandCode x) = .ok x := by cases x <;> rfl

theorem ackOfNat_ackCode (a : Ack) : ackOfNat (ackCode a) = .ok a := by cases a <;> rfl

theorem nodeOfNat_nodeCode (n : Node) : nodeOfNat (nodeCode n) = .ok n := by cases n <;> rfl

theorem buttonOfNat_buttonCode (b : Button) : buttonOfNat (buttonCode b) = .ok b := by cases b <;> rfl

theorem valueOfNat_toNat (v : AdcValue) : valueOfNat v.toNat = .ok v := by
  unfold valueOfNat
  rw [if_pos v.isLt, BitVec.ofNat_toNat, BitVec.setWidth_eq]

theorem commandCode_of_commandOfNat {n : Nat} {x : Command} (h : commandOfNat n = .ok x) : commandCode x = n := by
  unfold commandOfNat at h
  split at h <;> cases h <;> rfl

theorem ackCode_of_ackOfNat {n : Nat} {a : Ack} (h : ackOfNat n = .ok a) : ackCode a = n := by
  unfold ackOfNat at h
  split at h <;> cases h <;> rfl

theorem nodeCode_of_nodeOfNat {n : Nat} {q : Node} (h : nodeOfNat n = .ok q) : nodeCode q = n := by
  unfold nodeOfNat at h
  split at h <;> cases h <;> rfl

theorem buttonCode_of_buttonOfNat {n : Nat} {b : Button} (h : buttonOfNat n = .ok b) : buttonCode b = n := by
  unfold buttonOfNat at h
  split at h <;> cases h <;> rfl

theorem toNat_of_valueOfNat {n : Nat} {v : AdcValue} (h : valueOfNat n = .ok v) : v.toNat = n := by
  unfold valueOfNat at h
  split at h <;> cases h
  rw [BitVec.toNat_ofNat, Nat.mod_eq_of_lt (by omega)]

/-- The queue stands in the lowest bit of the operands of `ENQ`, the frame word above it (log 3). -/
theorem enqOfNat_code (q : Node) (f : Frame) : enqOfNat (nodeCode q + 2 * frameCode f) = .ok (.enq q f) := by
  have hparts : (nodeCode q + 2 * frameCode f) % 2 = nodeCode q ∧ (nodeCode q + 2 * frameCode f) / 2 = frameCode f := by
    cases q <;> simp only [nodeCode] <;> omega
  simp only [enqOfNat, hparts.1, hparts.2, nodeOfNat_nodeCode, frameOfNat_frameCode]

theorem exists_enq_of_enqOfNat {n : Nat} {i : Instr} (h : enqOfNat n = .ok i) :
    ∃ q f, i = .enq q f ∧ nodeCode q + 2 * frameCode f = n := by
  unfold enqOfNat at h
  split at h
  · rename_i q f hq hf
    obtain rfl := Except.ok.inj h
    refine ⟨q, f, rfl, ?_⟩
    rw [nodeCode_of_nodeOfNat hq, frameCode_of_frameOfNat hf]
    omega
  · cases h
  · cases h

/-! ### Operation words -/

theorem decode_opWord (c : Config) (k o : Nat) (hk : k < 256) : decode c (opWord k o) = decodeCode k o :=
  decodeOp_code k o hk

section
variable {c : Config} {k n : Nat} {i : Instr}

/-- An operation whose operand is a value: the layouts' round trip is the word's. -/
theorem wf_and_encode_of_map {α : Type} {read : Nat → Except Reject α} {write : α → Nat} {con : α → Instr}
    (hread : ∀ {a}, read n = .ok a → write a = n) (hwf : ∀ a, (con a).wf c = true)
    (henc : ∀ a, encode c (con a) = opWord k (write a)) (h : (read n).map con = .ok i) :
    i.wf c = true ∧ encode c i = opWord k n := by
  cases ha : read n with
  | error r => rw [ha] at h; cases h
  | ok a =>
    rw [ha] at h
    obtain rfl := Except.ok.inj h
    exact ⟨hwf a, by rw [henc, hread ha]⟩

/-- An operation without operands: its operand bits are 0. -/
theorem wf_and_encode_of_noOperand {j : Instr} (hwf : j.wf c = true) (henc : encode c j = opWord k 0)
    (h : noOperand j n = .ok i) : i.wf c = true ∧ encode c i = opWord k n := by
  unfold noOperand at h
  split at h
  · rename_i hzero
    obtain rfl := Except.ok.inj h
    exact ⟨hwf, hzero ▸ henc⟩
  · cases h

/-- What an event code and its operand bits decode to is encoded by them, code by code of R109. -/
theorem wf_and_encode_of_decodeCode (h : decodeCode k n = .ok i) : i.wf c = true ∧ encode c i = opWord k n := by
  unfold decodeCode at h
  split at h
  case h_1 => exact wf_and_encode_of_map commandCode_of_commandOfNat (fun _ => rfl) (fun _ => rfl) h
  case h_2 => obtain rfl := Except.ok.inj h; exact ⟨rfl, rfl⟩
  case h_3 => exact wf_and_encode_of_map ackCode_of_ackOfNat (fun _ => rfl) (fun _ => rfl) h
  case h_4 => exact wf_and_encode_of_map frameCode_of_frameOfNat (fun _ => rfl) (fun _ => rfl) h
  case h_5 => exact wf_and_encode_of_map frameCode_of_frameOfNat (fun _ => rfl) (fun _ => rfl) h
  case h_6 => exact wf_and_encode_of_map frameCode_of_frameOfNat (fun _ => rfl) (fun _ => rfl) h
  case h_7 => obtain ⟨q, f, rfl, hn⟩ := exists_enq_of_enqOfNat h; exact ⟨rfl, hn ▸ rfl⟩
  case h_8 => exact wf_and_encode_of_map nodeCode_of_nodeOfNat (fun _ => rfl) (fun _ => rfl) h
  case h_9 => exact wf_and_encode_of_map nodeCode_of_nodeOfNat (fun _ => rfl) (fun _ => rfl) h
  case h_10 => exact wf_and_encode_of_map frameCode_of_frameOfNat (fun _ => rfl) (fun _ => rfl) h
  case h_11 => exact wf_and_encode_of_noOperand rfl rfl h
  case h_12 => exact wf_and_encode_of_noOperand rfl rfl h
  case h_13 => exact wf_and_encode_of_noOperand rfl rfl h
  case h_14 => exact wf_and_encode_of_noOperand rfl rfl h
  case h_15 => exact wf_and_encode_of_noOperand rfl rfl h
  case h_16 => exact wf_and_encode_of_map buttonCode_of_buttonOfNat (fun _ => rfl) (fun _ => rfl) h
  case h_17 => exact wf_and_encode_of_map buttonCode_of_buttonOfNat (fun _ => rfl) (fun _ => rfl) h
  case h_18 => exact wf_and_encode_of_map buttonCode_of_buttonOfNat (fun _ => rfl) (fun _ => rfl) h
  case h_19 => exact wf_and_encode_of_noOperand rfl rfl h
  case h_20 => exact wf_and_encode_of_map frameCode_of_frameOfNat (fun _ => rfl) (fun _ => rfl) h
  case h_21 => exact wf_and_encode_of_noOperand rfl rfl h
  case h_22 => exact wf_and_encode_of_map toNat_of_valueOfNat (fun _ => rfl) (fun _ => rfl) h
  case h_23 => exact wf_and_encode_of_map ackCode_of_ackOfNat (fun _ => rfl) (fun _ => rfl) h
  case h_24 => exact wf_and_encode_of_noOperand rfl rfl h
  case h_25 => exact wf_and_encode_of_map nodeCode_of_nodeOfNat (fun _ => rfl) (fun _ => rfl) h
  case h_26 => split at h <;> cases h

end

/-- A code that no row of R109 carries: unassigned within five bits, a fixed bit set above them. -/
theorem decodeCode_of_unassigned {k : Nat} (hk : 0x19 ≤ k) (n : Nat) :
    decodeCode k n = if k < 32 then .error .unassignedCode else .error .reservedBits := by
  unfold decodeCode
  split
  case h_26 => rfl
  all_goals omega

/-- Settles O5: both ranges lie above the last assigned code. -/
theorem unassignedCodesAreNoOperation : Obligations.UnassignedCodesAreNoOperation := by
  intro c w
  refine ⟨fun hlow hhigh => ?unassigned, fun hfixed => ?fixedBit⟩
  case unassigned => exact (decodeCode_of_unassigned hlow _).trans (if_pos (by omega))
  case fixedBit => exact (decodeCode_of_unassigned (by omega) _).trans (if_neg (by omega))

/-- Settles O3: each row of the table is read off by evaluation of the decoder. -/
theorem tableWordsDecode : Obligations.TableWordsDecode := by
  refine ⟨?_, ?_, ?_, ?_, ?_, ?_, ?_, ?_, ?_, ?_, ?_⟩ <;> rfl

end Sys2Proof
end

section
/-! PROOFS on the codec: the verdicts of the three decoders as equivalences, the instruction of a frame, and O1, O2, O6, O7, O9,
O11 to O13. -/

namespace Sys2Proof

/-! ### Commands -/

/-- What `DEC.CMD` answers for a command with its own tag (R134). -/
def Command.decoded : Command → DecodedCommand
  | .start => .start
  | .stop => .stop

/-- On the Start identifier the Start tag is judged before anything is asked of the Stop identifier (R140). -/
theorem decCmd_of_startTag (c : Config) (f : Frame) (hid : f.id = c.idCmdStart) (htag : f.data.d0 = c.tagCmdStart) :
    decCmd c f = .ok .start := by
  simp [decCmd, hid, htag]

/-- On a command's identifier only the command's own tag counts; the other command's is unrecognised (R103, D8). -/
theorem decCmd_of_cmdId (c : Config) (hids : c.IdsDistinct) (f : Frame) (x : Command) (hid : f.id = c.cmdId x) :
    decCmd c f = .ok (if f.data.d0 = c.cmdTag x then x.decoded else .unrecognised f.id f.data.d0) := by
  have hne : c.idCmdStart ≠ c.idCmdStop := (ids_distinct c hids).1
  cases x
  case start =>
    by_cases htag : f.data.d0 = c.tagCmdStart <;> simp [decCmd, Config.cmdId, Config.cmdTag, hid, htag, hne, Command.decoded]
  case stop =>
    by_cases htag : f.data.d0 = c.tagCmdStop <;>
      simp [decCmd, Config.cmdId, Config.cmdTag, hid, htag, hne.symm, Command.decoded]

/-- `DEC.CMD` refuses exactly the frames on no command identifier. -/
theorem decCmd_cases (c : Config) (hids : c.IdsDistinct) (f : Frame) :
    (f.id ≠ c.idCmdStart ∧ f.id ≠ c.idCmdStop ∧ decCmd c f = .error .malformedFrame)
    ∨ ∃ x : Command, f.id = c.cmdId x
        ∧ decCmd c f = .ok (if f.data.d0 = c.cmdTag x then x.decoded else .unrecognised f.id f.data.d0) := by
  by_cases hstart : f.id = c.idCmdStart
  · exact .inr ⟨.start, hstart, decCmd_of_cmdId c hids f .start hstart⟩
  · by_cases hstop : f.id = c.idCmdStop
    · exact .inr ⟨.stop, hstop, decCmd_of_cmdId c hids f .stop hstop⟩
    · exact .inl ⟨hstart, hstop, decCmd_of_id c f hstart hstop⟩

theorem decCmd_encCmd (c : Config) (hids : c.IdsDistinct) (x : Command) : decCmd c (encCmd c x) = .ok x.decoded :=
  (decCmd_of_cmdId c hids (encCmd c x) x rfl).trans (congrArg Except.ok (if_pos rfl))

/-! ### Acknowledges -/

/-- `DEC.ACK` accepts exactly the three legal pairs of identifier and tag (R104, R136). -/
theorem decAck_eq_ok_iff (c : Config) (hids : c.IdsDistinct) (htags : c.AckTagsDistinct) (f : Frame) (a : Ack) :
    decAck c f = .ok a ↔ f.id = c.ackId a ∧ f.data.d0 = c.ackTag a := by
  obtain ⟨-, -, -, -, -, -, -, -, -, hne⟩ := ids_distinct c hids
  by_cases hstart : f.id = c.idAckStart
  · by_cases htag : f.data.d0 = c.tagAckStartOk <;>
      cases a <;> simp [decAck, Config.ackId, Config.ackTag, hstart, htag, hne]
  · by_cases hstop : f.id = c.idAckStop
    · by_cases hok : f.data.d0 = c.tagAckStopOk
      · cases a <;> simp [decAck, Config.ackId, Config.ackTag, hstop, hok, hne.symm, htags]
      · by_cases herr : f.data.d0 = c.tagAckError <;>
          cases a <;> simp [decAck, Config.ackId, Config.ackTag, hstop, hok, herr, hne.symm, Ne.symm htags]
    · cases a <;> simp [decAck, Config.ackId, hstart, hstop]

theorem decAck_encAck (c : Config) (hids : c.IdsDistinct) (htags : c.AckTagsDistinct) (a : Ack) :
    decAck c (encAck c a) = .ok a := (decAck_eq_ok_iff c hids htags _ a).2 ⟨rfl, rfl⟩

/-- A decoder of acknowledges that does not accept answers `MalformedFrame`. -/
theorem decAck_eq_error_of_forall_ne (c : Config) (f : Frame) (h : ∀ a, decAck c f ≠ .ok a) :
    decAck c f = .error .malformedFrame := by
  cases hd : decAck c f with
  | ok a => exact absurd hd (h a)
  | error e => rw [Machine.decAck_error c f e hd]

/-! ### Data frames -/

/-- `DEC.ADC` accepts exactly eight digit bytes on the data identifier that spell at most 4095 (R96, R135). -/
theorem decAdc_eq_ok_iff_spelledBy (c : Config) (hmax : c.AdcMaxIs4095) (f : Frame) (v : AdcValue) :
    decAdc c f = .ok v ↔
      f.id = c.idAdcData ∧ (∀ b ∈ f.data.bytes, c.IsDigitByte b) ∧ v.toNat = c.spelledBy f.data := by
  have hv := v.isLt
  by_cases hid : f.id = c.idAdcData
  · by_cases hdigits : ∀ b ∈ f.data.bytes, c.IsDigitByte b
    · rw [decAdc_of_digitBytes c f hid hdigits, hmax, and_iff_right hid, and_iff_right hdigits]
      split
      case isTrue hgt => simp; omega
      case isFalse hle => rw [Except.ok.injEq, ← BitVec.toNat_inj, BitVec.toNat_ofNat]; omega
    · obtain ⟨b, hmem, hb⟩ : ∃ b ∈ f.data.bytes, ¬ c.IsDigitByte b := by simpa using hdigits
      simp [decAdc_of_not_digitByte c f hmem hb, hdigits]
  · simp [decAdc_of_id c f hid, hid]

/-- Settles O9: the digit bytes' number is the sum over the weights. -/
theorem adcDecodesExactlyTheLegalPayloads : Obligations.AdcDecodesExactlyTheLegalPayloads := by
  intro c hwf f v
  obtain ⟨-, -, -, -, -, -, hmax, -⟩ := hwf
  rw [← Config.spelledBy_eq_sum]
  exact decAdc_eq_ok_iff_spelledBy c hmax f v

/-- The eight digit bytes of a payload, byte by byte. -/
theorem forall_mem_bytes (p : Payload) (P : Byte → Prop) :
    (∀ b ∈ p.bytes, P b) ↔ P p.d0 ∧ P p.d1 ∧ P p.d2 ∧ P p.d3 ∧ P p.d4 ∧ P p.d5 ∧ P p.d6 ∧ P p.d7 := by
  simp [Payload.bytes]

/-- The numeral of R95 spells its number back. -/
theorem spelledBy_adcPayload (c : Config) (hc : c.DigitBaseFits) {v : Nat} (hv : v < 10 ^ 8) :
    c.spelledBy (c.adcPayload v) = v := by
  rw [Config.spelledBy_eq_sum]
  simp only [Config.adcPayload, digitByte_toNat c hc, Nat.add_sub_cancel_left]
  omega

/-- The digit appended last has weight 1. -/
theorem digitByte_appendDigit_zero (c : Config) {b : Byte} (hb : c.IsDigitByte b) (acc : Nat) :
    c.digitByte (c.appendDigit acc b) 0 = b := by
  apply BitVec.eq_of_toNat_eq
  rw [Config.digitByte, Config.appendDigit, BitVec.toNat_add, BitVec.toNat_ofNat]
  omega

/-- Appending a digit moves the others up by one weight. -/
theorem digitByte_appendDigit_succ (c : Config) {b : Byte} (hb : c.IsDigitByte b) (acc k : Nat) :
    c.digitByte (c.appendDigit acc b) (k + 1) = c.digitByte acc k := by
  have hshift : (acc * 10 + (b.toNat - c.digitBase.toNat)) / 10 = acc := by omega
  rw [Config.digitByte, Config.digitByte, Config.appendDigit, Nat.pow_succ', ← Nat.div_div_eq_div_mul, hshift]

/-- Digit bytes are fixed by the number they spell: no two payloads spell one number (R96). -/
theorem eq_adcPayload_of_digitBytes (c : Config) (p : Payload) (hdigits : ∀ b ∈ p.bytes, c.IsDigitByte b) :
    p = c.adcPayload (c.spelledBy p) := by
  obtain ⟨h0, h1, h2, h3, h4, h5, h6, h7⟩ := (forall_mem_bytes p _).1 hdigits
  simp only [Config.adcPayload, Config.spelledBy, Payload.bytes, List.foldl_cons, List.foldl_nil,
    digitByte_appendDigit_succ c h1, digitByte_appendDigit_succ c h2, digitByte_appendDigit_succ c h3,
    digitByte_appendDigit_succ c h4, digitByte_appendDigit_succ c h5, digitByte_appendDigit_succ c h6,
    digitByte_appendDigit_succ c h7, digitByte_appendDigit_zero c h0, digitByte_appendDigit_zero c h1,
    digitByte_appendDigit_zero c h2, digitByte_appendDigit_zero c h3, digitByte_appendDigit_zero c h4,
    digitByte_appendDigit_zero c h5, digitByte_appendDigit_zero c h6, digitByte_appendDigit_zero c h7]

theorem adcPayload_digitBytes (c : Config) (hc : c.DigitBaseFits) (v : Nat) :
    ∀ b ∈ (c.adcPayload v).bytes, c.IsDigitByte b := by
  have hdigit (k : Nat) : c.IsDigitByte (c.digitByte v k) := by
    have := digitByte_toNat c hc v k
    constructor <;> omega
  exact (forall_mem_bytes _ _).2 ⟨hdigit 7, hdigit 6, hdigit 5, hdigit 4, hdigit 3, hdigit 2, hdigit 1, hdigit 0⟩

/-- A data frame decodes to `v` exactly when its payload is the numeral of `v` (R95, R135). -/
theorem decAdc_eq_ok_iff (c : Config) (hbase : c.DigitBaseFits) (hmax : c.AdcMaxIs4095) (f : Frame) (v : AdcValue) :
    decAdc c f = .ok v ↔ f.id = c.idAdcData ∧ f.data = c.adcPayload v.toNat := by
  rw [decAdc_eq_ok_iff_spelledBy c hmax]
  refine and_congr_right fun _ => ⟨fun ⟨hdigits, hv⟩ => ?_, fun hdata => ?_⟩
  · rw [hv]
    exact eq_adcPayload_of_digitBytes c f.data hdigits
  · have hv := v.isLt
    rw [hdata]
    exact ⟨adcPayload_digitBytes c hbase _, (spelledBy_adcPayload c hbase (by omega)).symm⟩

theorem encAdc_toNat (c : Config) (hmax : c.AdcMaxIs4095) (v : AdcValue) :
    encAdc c v.toNat = .ok ⟨c.idAdcData, 8, c.adcPayload v.toNat⟩ :=
  encAdc_eq_ok_of_le c hmax (Nat.le_of_lt_succ v.isLt)

/-- Settles O6: each decoder accepts exactly what its encoder makes, and reads the tag byte alone. -/
theorem codecRoundTrips : Obligations.CodecRoundTrips := by
  intro c hwf
  obtain ⟨hids, htags, -, -, -, hbase, hmax, -⟩ := hwf
  refine ⟨⟨decCmd_encCmd c hids .start, decCmd_encCmd c hids .stop⟩, fun v => ?adc, decAck_encAck c hids htags,
    fun f v hd => ?payload, fun f r => ⟨rfl, rfl⟩⟩
  case adc => exact ⟨_, encAdc_toNat c hmax v, (decAdc_eq_ok_iff c hbase hmax _ v).2 ⟨rfl, rfl⟩⟩
  case payload =>
    obtain ⟨hid, hdata⟩ := (decAdc_eq_ok_iff c hbase hmax f v).1 hd
    exact ⟨_, encAdc_toNat c hmax v, hid.symm, hdata.symm, Eq.symm⟩

/-! ### No frame is of two kinds -/

section
variable {c : Config} (hids : c.IdsDistinct)
include hids

/-- A frame on a command identifier is neither data nor acknowledge. -/
theorem refused_of_cmdId {f : Frame} {x : Command} (hid : f.id = c.cmdId x) :
    decAck c f = .error .malformedFrame ∧ decAdc c f = .error .malformedFrame := by
  obtain ⟨-, hsa, hsk, hsk', hpa, hpk, hpk', -⟩ := ids_distinct c hids
  cases x
  case start => exact ⟨decAck_of_id c f (hid ▸ hsk) (hid ▸ hsk'), decAdc_of_id c f (hid ▸ hsa)⟩
  case stop => exact ⟨decAck_of_id c f (hid ▸ hpk) (hid ▸ hpk'), decAdc_of_id c f (hid ▸ hpa)⟩

/-- A frame on the data identifier is neither command nor acknowledge. -/
theorem refused_of_dataId {f : Frame} (hid : f.id = c.idAdcData) :
    decCmd c f = .error .malformedFrame ∧ decAck c f = .error .malformedFrame := by
  obtain ⟨-, hsa, -, -, hpa, -, -, hak, hak', -⟩ := ids_distinct c hids
  exact ⟨decCmd_of_id c f (hid ▸ hsa.symm) (hid ▸ hpa.symm), decAck_of_id c f (hid ▸ hak) (hid ▸ hak')⟩

/-- A frame on an acknowledge identifier is neither command nor data. -/
theorem refused_of_ackId {f : Frame} {a : Ack} (hid : f.id = c.ackId a) :
    decCmd c f = .error .malformedFrame ∧ decAdc c f = .error .malformedFrame := by
  obtain ⟨-, -, hsk, hsk', -, hpk, hpk', hak, hak', -⟩ := ids_distinct c hids
  have hstart : f.id = c.idAckStart →
      decCmd c f = .error .malformedFrame ∧ decAdc c f = .error .malformedFrame := fun h =>
    ⟨decCmd_of_id c f (h ▸ hsk.symm) (h ▸ hpk.symm), decAdc_of_id c f (h ▸ hak.symm)⟩
  have hstop : f.id = c.idAckStop →
      decCmd c f = .error .malformedFrame ∧ decAdc c f = .error .malformedFrame := fun h =>
    ⟨decCmd_of_id c f (h ▸ hsk'.symm) (h ▸ hpk'.symm), decAdc_of_id c f (h ▸ hak'.symm)⟩
  cases a
  case startOk => exact hstart hid
  case stopOk => exact hstop hid
  case error => exact hstop hid

end

/-- Settles O7: each kind has identifiers of its own, and a decoder refuses every identifier but its own. -/
theorem crossKindRefusal : Obligations.CrossKindRefusal := by
  intro c hwf
  obtain ⟨hids, htags, -⟩ := hwf
  refine ⟨fun x => (refused_of_cmdId hids (f := encCmd c x) rfl).symm, fun v f hf => ?data,
    fun a => refused_of_ackId hids (f := encAck c a) rfl, fun f x hx => ?command, fun f a ha => ?ack⟩
  case data =>
    rcases Machine.encAdc_cases c v with ⟨-, herr⟩ | ⟨-, hok⟩
    · rw [herr] at hf; cases hf
    · obtain rfl := Except.ok.inj (hok.symm.trans hf)
      exact refused_of_dataId hids rfl
  case command =>
    rcases decCmd_cases c hids f with ⟨-, -, herr⟩ | ⟨y, hid, -⟩
    · rw [herr] at hx; cases hx
    · exact refused_of_cmdId hids hid
  case ack => exact (refused_of_ackId hids ((decAck_eq_ok_iff c hids htags f a).1 ha).1).2

/-! ### The instruction of a frame -/

/-- The wire message of a command (R98). -/
def Command.message : Command → Fin 9 → Reserved → Instr
  | .start => .cmdStart
  | .stop => .cmdStop

/-- The wire message of an acknowledge (R98). -/
def Ack.message : Ack → Fin 9 → Reserved → Instr
  | .startOk => .ackStartOk
  | .stopOk => .ackStopOk
  | .error => .ackError

section
variable {c : Config} {f : Frame}

theorem instrOfFrame_of_command {x : Command} (h : decCmd c f = .ok x.decoded) :
    c.instrOfFrame f = .ok (x.message f.dlc f.data.reserved) := by
  cases x <;> simp only [Command.decoded] at h <;> simp only [Config.instrOfFrame, h, Command.message]

/-- The identifier of an unrecognised command names the command it stands for, as the two differ (R103). -/
theorem instrOfFrame_of_unrecognised (hids : c.IdsDistinct) {x : Command} {tag : Byte} (hid : f.id = c.cmdId x)
    (h : decCmd c f = .ok (.unrecognised f.id tag)) :
    c.instrOfFrame f = .ok (.cmdUnrecognised x tag f.dlc f.data.reserved) := by
  have hne : c.idCmdStart ≠ c.idCmdStop := (ids_distinct c hids).1
  cases x <;> simp only [Config.cmdId] at hid <;> simp [Config.instrOfFrame, h, hid, hne.symm]

theorem instrOfFrame_of_data {e : BlockError} {v : AdcValue} (hcmd : decCmd c f = .error e) (h : decAdc c f = .ok v) :
    c.instrOfFrame f = .ok (.dataAdc v f.dlc) := by
  simp only [Config.instrOfFrame, hcmd, h]

theorem instrOfFrame_of_ack {e e' : BlockError} {a : Ack} (hcmd : decCmd c f = .error e) (hadc : decAdc c f = .error e')
    (h : decAck c f = .ok a) : c.instrOfFrame f = .ok (a.message f.dlc f.data.reserved) := by
  cases a <;> simp only [Config.instrOfFrame, hcmd, hadc, h, Ack.message]

theorem instrOfFrame_of_malformed {e e' e'' : BlockError} (hcmd : decCmd c f = .error e) (hadc : decAdc c f = .error e')
    (hack : decAck c f = .error e'') : c.instrOfFrame f = .error .malformedFrame := by
  simp only [Config.instrOfFrame, hcmd, hadc, hack]

/-- Everything a frame can be for its consumer (R110), each kind with its identifier and payload. -/
theorem instrOfFrame_cases (hwf : c.WellFormed) (f : Frame) :
    (∃ x : Command, f.id = c.cmdId x ∧ f.data.d0 = c.cmdTag x ∧ decCmd c f = .ok x.decoded
        ∧ c.instrOfFrame f = .ok (x.message f.dlc f.data.reserved))
    ∨ (∃ x : Command, f.id = c.cmdId x ∧ f.data.d0 ≠ c.cmdTag x ∧ decCmd c f = .ok (.unrecognised f.id f.data.d0)
        ∧ c.instrOfFrame f = .ok (.cmdUnrecognised x f.data.d0 f.dlc f.data.reserved))
    ∨ (∃ v : AdcValue, decCmd c f = .error .malformedFrame ∧ decAdc c f = .ok v
        ∧ c.instrOfFrame f = .ok (.dataAdc v f.dlc))
    ∨ (∃ a : Ack, decCmd c f = .error .malformedFrame ∧ decAck c f = .ok a
        ∧ c.instrOfFrame f = .ok (a.message f.dlc f.data.reserved))
    ∨ (decCmd c f = .error .malformedFrame ∧ decAdc c f = .error .malformedFrame ∧ decAck c f = .error .malformedFrame
        ∧ c.instrOfFrame f = .error .malformedFrame) := by
  obtain ⟨hids, -⟩ := hwf
  rcases decCmd_cases c hids f with ⟨-, -, hcmd⟩ | ⟨x, hid, hcmd⟩
  · cases hadc : decAdc c f with
    | ok v => exact .inr (.inr (.inl ⟨v, hcmd, rfl, instrOfFrame_of_data hcmd hadc⟩))
    | error e =>
      obtain rfl := Machine.decAdc_error c f e hadc
      cases hack : decAck c f with
      | ok a => exact .inr (.inr (.inr (.inl ⟨a, hcmd, rfl, instrOfFrame_of_ack hcmd hadc hack⟩)))
      | error e =>
        obtain rfl := Machine.decAck_error c f e hack
        exact .inr (.inr (.inr (.inr ⟨hcmd, rfl, rfl, instrOfFrame_of_malformed hcmd hadc hack⟩)))
  · by_cases htag : f.data.d0 = c.cmdTag x
    · rw [if_pos htag] at hcmd
      exact .inl ⟨x, hid, htag, hcmd, instrOfFrame_of_command hcmd⟩
    · rw [if_neg htag] at hcmd
      exact .inr (.inl ⟨x, hid, htag, hcmd, instrOfFrame_of_unrecognised hids hid hcmd⟩)

end

/-! ### Wire messages -/

theorem decode_wire_frameCode (c : Config) (f : Frame) : decode c (.wire (frameCode f)) = c.instrOfFrame f := by
  simp only [decode, decodeWire, frameOfNat_frameCode]

/-- A frame word that decodes is the canonical word of a frame. -/
theorem exists_frame_of_decodeWire {c : Config} {w : Nat} {i : Instr} (h : decodeWire c w = .ok i) :
    ∃ f, frameCode f = w ∧ c.instrOfFrame f = .ok i := by
  unfold decodeWire at h
  cases hf : frameOfNat w with
  | ok f => rw [hf] at h; exact ⟨f, frameCode_of_frameOfNat hf, h⟩
  | error r => rw [hf] at h; cases h

/-- A frame is its identifier, its length, its tag byte and its reserved bytes (R92, R93). -/
theorem wireFrame_eq {f : Frame} {id : CanId} {tag : Byte} (hid : f.id = id) (htag : f.data.d0 = tag) :
    wireFrame id tag f.dlc f.data.reserved = .wire (frameCode f) := by
  subst hid htag
  rfl

section
variable {c : Config} (hwf : c.WellFormed) (dlc : Fin 9) (r : Reserved)
include hwf

theorem decode_command (x : Command) : decode c (wireFrame (c.cmdId x) (c.cmdTag x) dlc r) = .ok (x.message dlc r) := by
  refine (decode_wire_frameCode c _).trans (instrOfFrame_of_command (f := ⟨c.cmdId x, dlc, Payload.tagged (c.cmdTag x) r⟩) ?_)
  exact (decCmd_of_cmdId c hwf.1 _ x rfl).trans (congrArg Except.ok (if_pos rfl))

theorem decode_unrecognised (x : Command) {tag : Byte} (htag : tag ≠ c.cmdTag x) :
    decode c (wireFrame (c.cmdId x) tag dlc r) = .ok (.cmdUnrecognised x tag dlc r) := by
  refine (decode_wire_frameCode c _).trans
    (instrOfFrame_of_unrecognised (f := ⟨c.cmdId x, dlc, Payload.tagged tag r⟩) hwf.1 rfl ?_)
  exact (decCmd_of_cmdId c hwf.1 _ x rfl).trans (congrArg Except.ok (if_neg htag))

theorem decode_data (v : AdcValue) :
    decode c (.wire (frameCode ⟨c.idAdcData, dlc, c.adcPayload v.toNat⟩)) = .ok (.dataAdc v dlc) := by
  obtain ⟨hids, -, -, -, -, hbase, hmax, -⟩ := hwf
  exact (decode_wire_frameCode c _).trans (instrOfFrame_of_data (refused_of_dataId hids rfl).1
    ((decAdc_eq_ok_iff c hbase hmax _ v).2 ⟨rfl, rfl⟩))

theorem decode_ack (a : Ack) : decode c (wireFrame (c.ackId a) (c.ackTag a) dlc r) = .ok (a.message dlc r) := by
  obtain ⟨hids, htags, -⟩ := hwf
  obtain ⟨hcmd, hadc⟩ := refused_of_ackId hids (f := ⟨c.ackId a, dlc, Payload.tagged (c.ackTag a) r⟩) rfl
  exact (decode_wire_frameCode c _).trans
    (instrOfFrame_of_ack hcmd hadc ((decAck_eq_ok_iff c hids htags _ a).2 ⟨rfl, rfl⟩))

/-- The message of a frame is encoded by that frame's canonical word. -/
theorem wf_and_encode_of_instrOfFrame {f : Frame} {i : Instr} (h : c.instrOfFrame f = .ok i) :
    i.wf c = true ∧ encode c i = .wire (frameCode f) := by
  rcases instrOfFrame_cases hwf f with ⟨x, hid, htag, -, hi⟩ | ⟨x, hid, htag, -, hi⟩ | ⟨v, -, hadc, hi⟩ | ⟨a, -, hack, hi⟩
    | ⟨-, -, -, herr⟩
  case inl =>
    obtain rfl := Except.ok.inj (hi.symm.trans h)
    cases x <;> exact ⟨rfl, wireFrame_eq hid htag⟩
  case inr.inl =>
    obtain rfl := Except.ok.inj (hi.symm.trans h)
    cases x <;> exact ⟨by simpa [Instr.wf, Config.cmdTag] using htag, wireFrame_eq hid rfl⟩
  case inr.inr.inl =>
    obtain rfl := Except.ok.inj (hi.symm.trans h)
    obtain ⟨-, -, -, -, -, hbase, hmax, -⟩ := hwf
    obtain ⟨hid, hdata⟩ := (decAdc_eq_ok_iff c hbase hmax f v).1 hadc
    exact ⟨rfl, by rw [encode, ← hid, ← hdata]⟩
  case inr.inr.inr.inl =>
    obtain rfl := Except.ok.inj (hi.symm.trans h)
    obtain ⟨hids, htags, -⟩ := hwf
    obtain ⟨hid, htag⟩ := (decAck_eq_ok_iff c hids htags f a).1 hack
    cases a <;> exact ⟨rfl, wireFrame_eq hid htag⟩
  case inr.inr.inr.inr => rw [herr] at h; cases h

end

/-! ### The decoder against the encoder -/

/-- An operation whose operand is a value reads it back if its layout does. -/
theorem decode_opWord_of_map {c : Config} {k n : Nat} {α : Type} {a : α} {read : Nat → Except Reject α} {con : α → Instr}
    (hk : k < 256) (hcode : ∀ o, decodeCode k o = (read o).map con) (hread : read n = .ok a) :
    decode c (opWord k n) = .ok (con a) := by
  rw [decode_opWord c k n hk, hcode, hread]
  rfl

/-- Settles O1: a wire message by its decoder's verdict, a block operation by its code and its operand layout. -/
theorem encodeThenDecode : Obligations.EncodeThenDecode := by
  intro c i hwf hi
  cases i with
  | cmdStart dlc r => exact decode_command hwf dlc r .start
  | cmdStop dlc r => exact decode_command hwf dlc r .stop
  | dataAdc v dlc => exact decode_data hwf dlc v
  | ackStartOk dlc r => exact decode_ack hwf dlc r .startOk
  | ackStopOk dlc r => exact decode_ack hwf dlc r .stopOk
  | ackError dlc r => exact decode_ack hwf dlc r .error
  | cmdUnrecognised x tag dlc r =>
    refine decode_unrecognised hwf dlc r x ?_
    cases x <;> simpa [Instr.wf, Config.cmdTag] using hi
  | encCmd x => exact decode_opWord_of_map (by decide) (fun _ => rfl) (commandOfNat_commandCode x)
  | encAdc v => exact decode_opWord c 0x01 _ (by decide)
  | encAck a => exact decode_opWord_of_map (by decide) (fun _ => rfl) (ackOfNat_ackCode a)
  | decCmd f => exact decode_opWord_of_map (by decide) (fun _ => rfl) (frameOfNat_frameCode f)
  | decAdc f => exact decode_opWord_of_map (by decide) (fun _ => rfl) (frameOfNat_frameCode f)
  | decAck f => exact decode_opWord_of_map (by decide) (fun _ => rfl) (frameOfNat_frameCode f)
  | enq q f => exact (decode_opWord c 0x06 _ (by decide)).trans (enqOfNat_code q f)
  | deq q => exact decode_opWord_of_map (by decide) (fun _ => rfl) (nodeOfNat_nodeCode q)
  | qstat q => exact decode_opWord_of_map (by decide) (fun _ => rfl) (nodeOfNat_nodeCode q)
  | smpRx f => exact decode_opWord_of_map (by decide) (fun _ => rfl) (frameOfNat_frameCode f)
  | smpDrain => exact decode_opWord c 0x0A 0 (by decide)
  | smpStart => exact decode_opWord c 0x0B 0 (by decide)
  | smpStop => exact decode_opWord c 0x0C 0 (by decide)
  | smpUnknown => exact decode_opWord c 0x0D 0 (by decide)
  | smpTick => exact decode_opWord c 0x0E 0 (by decide)
  | btnPoll b => exact decode_opWord_of_map (by decide) (fun _ => rfl) (buttonOfNat_buttonCode b)
  | hubPress b => exact decode_opWord_of_map (by decide) (fun _ => rfl) (buttonOfNat_buttonCode b)
  | hubRelease b => exact decode_opWord_of_map (by decide) (fun _ => rfl) (buttonOfNat_buttonCode b)
  | hubEdge => exact decode_opWord c 0x12 0 (by decide)
  | hubRx f => exact decode_opWord_of_map (by decide) (fun _ => rfl) (frameOfNat_frameCode f)
  | hubDrain => exact decode_opWord c 0x14 0 (by decide)
  | hubData v => exact decode_opWord_of_map (by decide) (fun _ => rfl) (valueOfNat_toNat v)
  | hubAck a => exact decode_opWord_of_map (by decide) (fun _ => rfl) (ackOfNat_ackCode a)
  | hubQuery => exact decode_opWord c 0x17 0 (by decide)
  | reset n => exact decode_opWord_of_map (by decide) (fun _ => rfl) (nodeOfNat_nodeCode n)

/-- Settles O2: an operation word is its low byte and what stands above it, a frame word the word of the frame it spells. -/
theorem decodeThenEncode : Obligations.DecodeThenEncode := by
  intro c w i hwf h
  cases w with
  | op w =>
    have hw : opWord (w % 256) (w / 256) = .op w := congrArg EventWord.op (Nat.mod_add_div w 256)
    exact hw ▸ wf_and_encode_of_decodeCode h
  | wire w =>
    obtain ⟨f, rfl, hf⟩ := exists_frame_of_decodeWire h
    exact wf_and_encode_of_instrOfFrame hwf hf

/-! ### The decoders of commands and acknowledges as instructions -/

namespace Machine

theorem exec_decCmd (f : Frame) (s : State) : exec (.decCmd f) s = execDecCmd f s := rfl

theorem exec_decAck (f : Frame) (s : State) : exec (.decAck f) s = execDecAck f s := rfl

theorem exec_decCmd_of_ok {f : Frame} {s : State} {x : DecodedCommand} (h : decCmd s.cfg f = .ok x) :
    exec (.decCmd f) s = .next { s with outputs := [], result := some (.command x) } := by
  simp only [exec_decCmd, execDecCmd, h, State.begin_ret_eq]

theorem exec_decCmd_of_error {f : Frame} {s : State} {e : BlockError} (h : decCmd s.cfg f = .error e) :
    exec (.decCmd f) s = .next { s with outputs := [], result := some (.err e) } := by
  simp only [exec_decCmd, execDecCmd, h, State.begin_raise_eq]

theorem exec_decAck_of_ok {f : Frame} {s : State} {a : Ack} (h : decAck s.cfg f = .ok a) :
    exec (.decAck f) s = .next { s with outputs := [], result := some (.acknowledge a) } := by
  simp only [exec_decAck, execDecAck, h, State.begin_ret_eq]

theorem exec_decAck_of_error {f : Frame} {s : State} {e : BlockError} (h : decAck s.cfg f = .error e) :
    exec (.decAck f) s = .next { s with outputs := [], result := some (.err e) } := by
  simp only [exec_decAck, execDecAck, h, State.begin_raise_eq]

theorem exec_encAck_eq (a : Ack) (s : State) :
    exec (.encAck a) s = .next { s with outputs := [], result := some (.frame (encAck s.cfg a)) } := rfl

end Machine

/-- Settles O11: the three acknowledges are the one law of `ENC.ACK`. -/
theorem ackEncoderAnswers : Obligations.AckEncoderAnswers :=
  fun s => ⟨Machine.exec_encAck_eq .startOk s, Machine.exec_encAck_eq .stopOk s, Machine.exec_encAck_eq .error s⟩

/-- Settles O12: the verdict by identifier, then tag; the crossed pairs are the two unrecognised ones. -/
theorem commandDecoderAnswers : Obligations.CommandDecoderAnswers := by
  intro f s
  have hunrecognised (hwf : s.cfg.WellFormed) (x : Command) (hid : f.id = s.cfg.cmdId x) (htag : f.data.d0 ≠ s.cfg.cmdTag x) :
      decCmd s.cfg f = .ok (.unrecognised f.id f.data.d0) :=
    (decCmd_of_cmdId s.cfg hwf.1 f x hid).trans (congrArg Except.ok (if_neg htag))
  refine ⟨fun hstart hstop => Machine.exec_decCmd_of_error (decCmd_of_id s.cfg f hstart hstop),
    fun hid htag => Machine.exec_decCmd_of_ok (decCmd_of_startTag s.cfg f hid htag),
    fun hwf hid htag => Machine.exec_decCmd_of_ok ?stop,
    fun hwf hid htag => Machine.exec_decCmd_of_ok (hunrecognised hwf .start hid htag),
    fun hwf hid htag => Machine.exec_decCmd_of_ok (hunrecognised hwf .stop hid htag)⟩
  case stop => exact (decCmd_of_cmdId s.cfg hwf.1 f .stop hid).trans (congrArg Except.ok (if_pos htag))

/-- Settles O13: the legal pairs are the three acknowledges' own, and nothing else is accepted. -/
theorem ackDecoderAnswers : Obligations.AckDecoderAnswers := by
  intro f s hwf
  obtain ⟨hids, htags, -⟩ := hwf
  have hiff := decAck_eq_ok_iff s.cfg hids htags f
  refine ⟨fun hid htag => Machine.exec_decAck_of_ok ((hiff .startOk).2 ⟨hid, htag⟩),
    fun hid htag => Machine.exec_decAck_of_ok ((hiff .stopOk).2 ⟨hid, htag⟩),
    fun hid htag => Machine.exec_decAck_of_ok ((hiff .error).2 ⟨hid, htag⟩),
    fun hstart hstop => Machine.exec_decAck_of_error (decAck_eq_error_of_forall_ne s.cfg f fun a ha => ?_)⟩
  obtain ⟨hid, htag⟩ := (hiff a).1 ha
  cases a
  case startOk => exact hstart ⟨hid, htag⟩
  case stopOk => exact hstop ⟨hid, .inl htag⟩
  case error => exact hstop ⟨hid, .inr htag⟩

end Sys2Proof
end

section
/-! PROOFS on single operations as whole states: status read, Start, Stop, tick, wire messages, the hub's handlers, `RESET`; O18,
O22, O23, O25, O26, O37, O43, O44, O57. -/

namespace Sys2Proof

namespace Machine

/-! ### Dispatch -/

theorem exec_qstat (n : Node) (s : State) : exec (.qstat n) s = .next (s.begin.ret
    (.queueStatus (s.queue n).count.val (s.queue n).isEmpty (s.queue n).isFull)) := rfl

theorem exec_smpStart (s : State) : exec .smpStart s = .next (startCommand s.begin) := rfl

theorem exec_smpStop (s : State) : exec .smpStop s = .next (stopCommand s.begin) := rfl

theorem exec_smpTick (s : State) : exec .smpTick s = .next (samplerTick s.begin) := rfl

theorem exec_hubData (v : AdcValue) (s : State) : exec (.hubData v) s = .next (recordData v s.begin) := rfl

theorem exec_hubAck (a : Ack) (s : State) : exec (.hubAck a) s = .next (reportAck a s.begin) := rfl

theorem exec_reset (n : Node) (s : State) : exec (.reset n) s = .next ((resetNode n s.begin).ret (.resetDone n)) := rfl

/-! ### The sampler's handlers by state -/

theorem startCommand_of_idle {s : State} (h : s.smp.mode = .idle) :
    startCommand s = (((s.setMode .sampling).emit .arm).transmit (encAck s.cfg .startOk)).ret (.started s.inputs.tx) := by
  simpa [h] using startCommand_cases s

theorem startCommand_of_not_idle {s : State} (h : s.smp.mode ≠ .idle) : startCommand s = s.ret .alreadyActive := by
  simpa [h] using startCommand_cases s

theorem stopCommand_of_sampling {s : State} (h : s.smp.mode = .sampling) :
    stopCommand s = (((s.setMode .idle).emit .disarm).transmit (encAck s.cfg .stopOk)).ret (.stopped s.inputs.tx) := by
  simpa [h] using stopCommand_cases s

theorem stopCommand_of_idle {s : State} (h : s.smp.mode = .idle) :
    stopCommand s = (s.transmit (encAck s.cfg .stopOk)).ret (.stopped s.inputs.tx) := by
  simpa [h] using stopCommand_cases s

theorem stopCommand_of_error_none {s : State} (h : s.smp.mode = .error) (ha : s.cfg.ackOnStopInError = none) :
    stopCommand s = s.ret .ignored := by
  simpa [h, ha] using stopCommand_cases s

theorem stopCommand_of_error_some {s : State} {a : Ack} (h : s.smp.mode = .error) (ha : s.cfg.ackOnStopInError = some a) :
    stopCommand s = (s.transmit (encAck s.cfg a)).ret (.refusedStop s.inputs.tx) := by
  simpa [h, ha] using stopCommand_cases s

theorem samplerTick_of_not_sampling {s : State} (h : s.smp.mode ≠ .sampling) : samplerTick s = s.ret .ignored := by
  simpa [h] using samplerTick_cases s

theorem samplerTick_of_err {s : State} {hw : HwError} (h : s.smp.mode = .sampling) (ha : s.inputs.analog = .err hw) :
    samplerTick s = (s.emit .readAnalog).ret (.skipped (.hwFailure hw)) := by
  simpa [h, ha] using samplerTick_cases s

theorem samplerTick_of_gt {s : State} {raw : Nat} (h : s.smp.mode = .sampling) (ha : s.inputs.analog = .ok raw)
    (hraw : s.cfg.adcMax < raw) : samplerTick s = (s.emit .readAnalog).ret (.skipped (.outOfRange raw)) := by
  simpa [h, ha, hraw, Nat.not_le.2 hraw] using samplerTick_cases s

theorem samplerTick_of_le {s : State} {raw : Nat} (h : s.smp.mode = .sampling) (ha : s.inputs.analog = .ok raw)
    (hraw : raw ≤ s.cfg.adcMax) :
    samplerTick s = (((s.emit .readAnalog).transmit ⟨s.cfg.idAdcData, 8, s.cfg.adcPayload raw⟩).countSample).ret
      (.sampled raw s.inputs.tx) := by
  simpa [h, ha, hraw, Nat.not_lt.2 hraw] using samplerTick_cases s

/-! ### The status bits -/

theorem Queue.isEmpty_iff (q : Queue) : q.isEmpty = true ↔ q.count.val = 0 := by simp [Queue.isEmpty]

theorem Queue.isFull_iff (q : Queue) : q.isFull = true ↔ q.count.val = 8 := by simp [Queue.isFull]

/-- The freshness answer where the spec states one: a subtraction that does not go below zero (R235, D25). -/
theorem Cache.receiving_of_le {k : Cache} {now : Nat} (window draw : Nat)
    (hstamp : k.validFlag = true → k.lastReceivedTimestamp ≤ now) :
    k.receiving window now draw = true ↔ k.validFlag = true ∧ now < k.lastReceivedTimestamp + window := by
  rcases k.receiving_cases window now draw with ⟨hv, he⟩ | ⟨hv, hle, he⟩ | ⟨hv, hlt, -⟩
  · simp [he, hv]
  · rw [he, decide_eq_true_iff, and_iff_right hv]
    omega
  · exact absurd (hstamp hv) (by omega)

end Machine

open Machine

/-- Settles O18: the two bits are the two ends of the count's range. -/
theorem statusReadAnswers : Obligations.StatusReadAnswers := by
  intro n s
  have hempty := (s.queue n).isEmpty_iff
  have hfull := (s.queue n).isFull_iff
  exact ⟨_, _, exec_qstat n s, hempty, hfull, fun ⟨he, hf⟩ => by rw [hempty] at he; rw [hfull] at hf; omega⟩

/-- Settles O22: one equation of the handler for Idle, one for the other two states. -/
theorem startCommandTable : Obligations.StartCommandTable := by
  intro s
  exact ⟨fun h => congrArg Host.Outcome.next (startCommand_of_idle (s := s.begin) h),
    fun h => congrArg Host.Outcome.next (startCommand_of_not_idle (s := s.begin) h)⟩

/-- Settles O23: the handler's four equations. -/
theorem stopCommandTable : Obligations.StopCommandTable := by
  intro s
  exact ⟨fun h => congrArg Host.Outcome.next (stopCommand_of_sampling (s := s.begin) h),
    fun h => congrArg Host.Outcome.next (stopCommand_of_idle (s := s.begin) h),
    fun h ha => congrArg Host.Outcome.next (stopCommand_of_error_none (s := s.begin) h ha),
    fun _ h ha => congrArg Host.Outcome.next (stopCommand_of_error_some (s := s.begin) h ha)⟩

/-- Settles O25: the tick's four equations, at the value R7 gives `ADC_MAX`. -/
theorem tickTable : Obligations.TickTable := by
  intro s
  have hmax (hwf : s.cfg.WellFormed) : s.cfg.AdcMaxIs4095 := by
    obtain ⟨-, -, -, -, -, -, hmax, -⟩ := hwf
    exact hmax
  refine ⟨fun h => congrArg Host.Outcome.next (samplerTick_of_not_sampling (s := s.begin) h),
    fun hw h ha => congrArg Host.Outcome.next (samplerTick_of_err (s := s.begin) h ha),
    fun raw hwf h ha hraw => congrArg Host.Outcome.next (samplerTick_of_gt (s := s.begin) h ha ?_),
    fun raw hwf h ha hraw => ⟨_, encAdc_eq_ok_of_le s.cfg (hmax hwf) hraw,
      congrArg Host.Outcome.next (samplerTick_of_le (s := s.begin) h ha ?_)⟩⟩
  · exact (hmax hwf).trans_lt hraw
  · exact hraw.trans_eq (hmax hwf).symm

/-- Settles O26: a wire message and its operation call the same handler, and the handler is given neither length nor bytes. -/
theorem wireMessagesRunTheirHandlers : Obligations.WireMessagesRunTheirHandlers :=
  fun _ _ s => ⟨⟨startCommand s.begin, rfl, exec_smpStart s⟩, ⟨stopCommand s.begin, rfl, exec_smpStop s⟩,
    fun _ _ => ⟨unknownCommand s.begin, rfl, exec_smpUnknown s⟩, fun v => ⟨recordData v s.begin, rfl, exec_hubData v s⟩,
    ⟨reportAck .startOk s.begin, rfl, exec_hubAck .startOk s⟩, ⟨reportAck .stopOk s.begin, rfl, exec_hubAck .stopOk s⟩,
    ⟨reportAck .error s.begin, rfl, exec_hubAck .error s⟩⟩

/-- Settles O37: the edge is a result and nothing else. -/
theorem edgeInterruptHasNoEffect : Obligations.EdgeInterruptHasNoEffect := 
  fun s => congrArg Host.Outcome.next (s.begin_ret_eq .edgeDone)

/-- Settles O43: the cache is written before `DATA_TEXT` is looked at. -/
theorem dataIsRecorded : Obligations.DataIsRecorded := by
  intro v s
  refine ⟨fun hnone => ?_, fun format hsome => ?_⟩
  · simp only [exec_hubData, recordData, State.begin_cfg, hnone]
    rfl
  · simp only [exec_hubData, recordData, State.begin_cfg, hsome]
    rfl

/-- Settles O44: the report's three arms, of which one writes the cache. -/
theorem acknowledgesAreReported : Obligations.AcknowledgesAreReported :=
  fun s => ⟨exec_hubAck .startOk s, exec_hubAck .stopOk s, exec_hubAck .error s⟩

/-- Settles O57: the unspecified contents are the free values of the step. -/
theorem resetInitialisesOneNode : Obligations.ResetInitialisesOneNode :=
  fun s => ⟨⟨_, exec_reset .sampler s⟩, ⟨_, _, _, exec_reset .hub s⟩⟩

end Sys2Proof
end

section
/-! PROOFS on steps and runs: what an instruction can do without its queues, the step by what stands next, the induction over a
run; O49 to O51, O53, O54, O58. -/

namespace Sys2Proof

namespace Machine

/-! ### More rules of the state -/

@[simp] theorem State.setQueue_queue (s : State) (n : Node) : s.setQueue n (s.queue n) = s := by cases n <;> rfl
@[simp] theorem State.begin_setQueue_queue (s : State) (n : Node) : s.begin.setQueue n (s.queue n) = s.begin := by
  cases n <;> rfl
@[simp] theorem State.queue_emit (s : State) (o : Output) (n : Node) : (s.emit o).queue n = s.queue n := by cases n <;> rfl
@[simp] theorem State.queue_transmit (s : State) (f : Frame) (n : Node) : (s.transmit f).queue n = s.queue n := by
  cases n <;> rfl
@[simp] theorem State.queue_setMode (s : State) (m : SamplerMode) (n : Node) : (s.setMode m).queue n = s.queue n := by
  cases n <;> rfl
@[simp] theorem State.queue_countSample (s : State) (n : Node) : s.countSample.queue n = s.queue n := by cases n <;> rfl
@[simp] theorem State.queue_invalidate (s : State) (n : Node) : s.invalidate.queue n = s.queue n := by cases n <;> rfl
@[simp] theorem State.setQueue_mode (s : State) (n : Node) (q : Queue) : (s.setQueue n q).smp.mode = s.smp.mode := by
  cases n <;> rfl
@[simp] theorem State.setQueue_sampleCounter (s : State) (n : Node) (q : Queue) :
    (s.setQueue n q).smp.sampleCounter = s.smp.sampleCounter := by cases n <;> rfl
@[simp] theorem State.setQueue_btn1 (s : State) (n : Node) (q : Queue) : (s.setQueue n q).hub.btn1 = s.hub.btn1 := by
  cases n <;> rfl
@[simp] theorem State.setQueue_btn2 (s : State) (n : Node) (q : Queue) : (s.setQueue n q).hub.btn2 = s.hub.btn2 := by
  cases n <;> rfl
@[simp] theorem State.setQueue_btn (s : State) (n : Node) (q : Queue) (b : Button) :
    (s.setQueue n q).hub.btn b = s.hub.btn b := by cases b <;> simp
@[simp] theorem State.setQueue_cache (s : State) (n : Node) (q : Queue) : (s.setQueue n q).hub.cache = s.hub.cache := by
  cases n <;> rfl

/-! ### What an instruction does beside its queue -/

/-- Results that tell of a recorded frame, an acknowledge, a sample or a reset. -/
def Result.tells : Result → Bool
  | .data _ => true
  | .acked _ => true
  | .sampled _ _ => true
  | .resetDone _ => true
  | _ => false

theorem Result.tells_of_quiet {r : Result} (h : r.quiet = true) : r.tells = false := by
  revert h
  cases r <;> simp [Result.quiet, Result.tells]

/-- `i` runs the handlers of node `n`: as the handler's own operation, or as that node's drain. -/
def Handles (i : Instr) (n : Node) : Prop := owner i = some n ∧ (level i = .sub ∨ i = drain n)

/-- A handler starts at the step's beginning, but for the queue of its node. -/
theorem Base.eq_setQueue {i : Instr} {s u : State} {n : Node} (h : Base i s n u) :
    Handles i n ∧ ∃ q, u = s.begin.setQueue n q := by
  cases h with
  | direct hown _ _ _ hsub => exact ⟨⟨hown, .inl hsub⟩, s.queue n, (s.begin_setQueue_queue n).symm⟩
  | drained f q hi _ =>
    rcases hi with ⟨rfl, rfl⟩ | ⟨rfl, rfl⟩ <;> exact ⟨⟨rfl, .inr rfl⟩, q, rfl⟩

/-- The state after an instruction, by what it shows and what it changes beside one queue of its node. -/
inductive Effect (i : Instr) (s : State) : State → Prop where
  /-- no output, and nothing written but a queue -/
  | silent (n : Node) (q : Queue) (r : Result) : (q = s.queue n ∨ owner i = some n) → r.tells = false →
      Effect i s ((s.begin.setQueue n q).ret r)
  | started (q : Queue) : Handles i .sampler → s.smp.mode = .idle →
      Effect i s (((((s.begin.setQueue .sampler q).setMode .sampling).emit .arm).transmit (encAck s.cfg .startOk)).ret
        (.started s.inputs.tx))
  | stopped (q : Queue) : Handles i .sampler → s.smp.mode = .sampling →
      Effect i s (((((s.begin.setQueue .sampler q).setMode .idle).emit .disarm).transmit (encAck s.cfg .stopOk)).ret
        (.stopped s.inputs.tx))
  /-- an acknowledge sent, and nothing written but a queue -/
  | replied (q : Queue) (a : Ack) (r : Result) : Handles i .sampler → r.tells = false → r ≠ .discarded →
      Effect i s (((s.begin.setQueue .sampler q).transmit (encAck s.cfg a)).ret r)
  | skipped (e : BlockError) : i = .smpTick → Effect i s ((s.begin.emit .readAnalog).ret (.skipped e))
  | sampled (raw : Nat) : i = .smpTick → s.smp.mode = .sampling →
      Effect i s ((((s.begin.emit .readAnalog).transmit ⟨s.cfg.idAdcData, 8, s.cfg.adcPayload raw⟩).countSample).ret
        (.sampled raw s.inputs.tx))
  | polled (b : Button) (x : ButtonState) : i = .btnPoll b →
      (s.hub.btn b).poll s.cfg.debounceTicks (s.rawPressed b) = (x, none) →
      Effect i s (({ s.begin with hub := s.hub.setBtn b x } : State).ret .noEvent)
  | pollPressed (b : Button) (x : ButtonState) : i = .btnPoll b →
      (s.hub.btn b).poll s.cfg.debounceTicks (s.rawPressed b) = (x, some .press) →
      Effect i s (((({ s.begin with hub := s.hub.setBtn b x } : State).emit (.press b)).transmit
        (encCmd s.cfg (buttonCommand b))).ret (.pressed b s.inputs.tx))
  | pollReleased (b : Button) (x : ButtonState) : i = .btnPoll b →
      (s.hub.btn b).poll s.cfg.debounceTicks (s.rawPressed b) = (x, some .release) →
      Effect i s ((({ s.begin with hub := s.hub.setBtn b x } : State).emit (.release b)).ret (.released b))
  | pressed (b : Button) : i = .hubPress b →
      Effect i s ((s.begin.transmit (encCmd s.cfg (buttonCommand b))).ret (.pressed b s.inputs.tx))
  /-- the cache overwritten; the outputs are console texts, if any -/
  | recorded (q : Queue) (v : AdcValue) (texts : List (List Byte)) : Handles i .hub →
      Effect i s (({ s.begin with
        hub := { s.hub with q := q, cache := ⟨v, true, s.inputs.now⟩ }, outputs := texts.map .text } : State).ret (.data v))
  | acked (q : Queue) (a : Ack) : Handles i .hub → a ≠ .stopOk →
      Effect i s (((s.begin.setQueue .hub q).emit (.text (ackText s.cfg a))).ret (.acked a))
  | ackedStop (q : Queue) : Handles i .hub →
      Effect i s ((((s.begin.setQueue .hub q).emit (.text s.cfg.textStopOk)).invalidate).ret (.acked .stopOk))
  | resetSampler (slots : Vector Frame 8) : i = .reset .sampler →
      Effect i s (({ s.begin with smp := Sampler.atReset slots } : State).ret (.resetDone .sampler))
  | resetHub (slots : Vector Frame 8) (v : AdcValue) (w : Nat) : i = .reset .hub →
      Effect i s (({ s.begin with hub := Hub.atReset slots v w } : State).ret (.resetDone .hub))

/-- A silent handler of node `n`. -/
theorem Base.silent {i : Instr} {s u : State} {n : Node} (h : Base i s n u) {r : Result} (hr : r.tells = false) :
    Effect i s (u.ret r) := by
  obtain ⟨hi, q, rfl⟩ := h.eq_setQueue
  exact .silent n q r (.inr hi.1) hr

/-- A silent answer that writes no queue either. -/
theorem Effect.answered {i : Instr} {s : State} {r : Result} (hr : r.tells = false) : Effect i s (s.begin.ret r) := by
  have hsilent := Effect.silent (i := i) .sampler (s.queue .sampler) r (.inl rfl) hr
  rwa [State.begin_setQueue_queue] at hsilent

/-- An instruction that stores a frame belongs to the queue's node. -/
theorem owner_of_stored {i : Instr} {n : Node} {f : Frame}
    (h : i = .enq n f ∨ (n = .sampler ∧ i = .smpRx f) ∨ (n = .hub ∧ i = .hubRx f)) : owner i = some n := by
  rcases h with rfl | ⟨rfl, rfl⟩ | ⟨rfl, rfl⟩ <;> rfl

/-- Everything `exec` can do beside its queues. -/
theorem effect_of_exec {i : Instr} {s t : State} (h : exec i s = .next t) : Effect i s t := by
  cases did_of_exec h with
  | answered r hr => exact .answered (Result.tells_of_quiet hr)
  | stored n f q hi _ => exact .silent n q _ (.inr (owner_of_stored hi)) rfl
  | taken n f q hi _ => exact .silent n q _ (.inr (hi ▸ rfl)) rfl
  | discarded n u _ hu => exact hu.silent rfl
  | started u hu hm =>
    obtain ⟨hi, q, rfl⟩ := hu.eq_setQueue
    exact .started q hi hm
  | alreadyActive u hu => exact hu.silent rfl
  | stopped u hu hm =>
    obtain ⟨hi, q, rfl⟩ := hu.eq_setQueue
    exact .stopped q hi hm
  | stoppedInIdle u hu =>
    obtain ⟨hi, q, rfl⟩ := hu.eq_setQueue
    exact .replied q .stopOk _ hi rfl nofun
  | stopIgnored u hu => exact hu.silent rfl
  | stopRefused u a hu =>
    obtain ⟨hi, q, rfl⟩ := hu.eq_setQueue
    exact .replied q a _ hi rfl nofun
  | rejected u hu =>
    obtain ⟨hi, q, rfl⟩ := hu.eq_setQueue
    exact .replied q .error _ hi rfl nofun
  | skipped e hi _ => exact .skipped e hi
  | sampled raw hi hm _ => exact .sampled raw hi hm
  | polled b r hi hr hev => exact .polled b r.1 hi (hr ▸ Prod.ext rfl hev)
  | pollPressed b r hi hr hev => exact .pollPressed b r.1 hi (hr ▸ Prod.ext rfl hev)
  | pollReleased b r hi hr hev => exact .pollReleased b r.1 hi (hr ▸ Prod.ext rfl hev)
  | pressed b hi => exact .pressed b hi
  | recorded u v hu =>
    obtain ⟨hi, q, rfl⟩ := hu.eq_setQueue
    exact .recorded q v [] hi
  | recordedWithText u v k hu =>
    obtain ⟨hi, q, rfl⟩ := hu.eq_setQueue
    exact .recorded q v [Config.renderData k v] hi
  | acked u a hu ha =>
    obtain ⟨hi, q, rfl⟩ := hu.eq_setQueue
    exact .acked q a hi ha
  | ackedStop u hu =>
    obtain ⟨hi, q, rfl⟩ := hu.eq_setQueue
    exact .ackedStop q hi
  | resetSampler slots hi => exact .resetSampler slots hi
  | resetHub slots v w hi => exact .resetHub slots v w hi

/-! ### Every instruction completes -/

/-- Every arm of the dispatch answers a next state; only the codec and `DEQ` branch before they do. -/
theorem exec_total (i : Instr) (s : State) : ∃ t, exec i s = .next t := by
  cases i with
  | encAdc v =>
    rcases encAdc_cases s.cfg v with ⟨-, h⟩ | ⟨-, h⟩
    · exact ⟨_, exec_encAdc_of_error h⟩
    · exact ⟨_, exec_encAdc_of_ok h⟩
  | decCmd f =>
    cases h : decCmd s.cfg f with
    | ok x => exact ⟨_, exec_decCmd_of_ok h⟩
    | error e => exact ⟨_, exec_decCmd_of_error h⟩
  | decAdc f =>
    cases h : decAdc s.cfg f with
    | ok v => exact ⟨_, exec_decAdc_of_ok h⟩
    | error e => exact ⟨_, exec_decAdc_of_error h⟩
  | decAck f =>
    cases h : decAck s.cfg f with
    | ok a => exact ⟨_, exec_decAck_of_ok h⟩
    | error e => exact ⟨_, exec_decAck_of_error h⟩
  | deq n =>
    cases h : (s.queue n).deq with
    | none => exact ⟨_, exec_deq_of_none h⟩
    | some p => exact ⟨_, exec_deq_of_some h⟩
  | _ => exact ⟨_, rfl⟩

/-- No instruction writes the configuration or a field of the model's own but outputs and result, and each leaves a result. -/
theorem exec_frame {i : Instr} {s t : State} (h : exec i s = .next t) :
    t.result ≠ none ∧ t.cfg = s.cfg ∧ t.agenda = s.agenda ∧ t.bench = s.bench ∧ t.inputs = s.inputs ∧ t.draws = s.draws := by
  cases effect_of_exec h <;> simp

/-- An instruction leaves the record of the node it does not belong to. -/
theorem exec_other_node {i : Instr} {s t : State} (h : exec i s = .next t) :
    (owner i ≠ some .sampler → t.smp = s.smp) ∧ (owner i ≠ some .hub → t.hub = s.hub) := by
  cases effect_of_exec h with
  | silent n q r hq hr =>
    rcases hq with rfl | hown
    · rw [State.begin_setQueue_queue]
      exact ⟨fun _ => rfl, fun _ => rfl⟩
    · cases n
      case sampler => exact ⟨fun hne => absurd hown hne, fun _ => rfl⟩
      case hub => exact ⟨fun _ => rfl, fun hne => absurd hown hne⟩
  | started q hi | stopped q hi | replied q a r hi => exact ⟨fun hne => absurd hi.1 hne, fun _ => rfl⟩
  | skipped e hi | sampled raw hi | resetSampler slots hi => exact ⟨fun hne => absurd (congrArg owner hi) hne, fun _ => rfl⟩
  | polled b x hi | pollPressed b x hi | pollReleased b x hi | pressed b hi | resetHub slots v w hi =>
    exact ⟨fun _ => rfl, fun hne => absurd (congrArg owner hi) hne⟩
  | recorded q v texts hi | acked q a hi | ackedStop q hi => exact ⟨fun _ => rfl, fun hne => absurd hi.1 hne⟩

/-! ### The step -/

theorem step_of_fetch_instr {s u : State} {i : Instr} (h : s.fetch = .instr i u) : step s = exec i u := by
  simp only [step, h]

section
variable {s : State} {e : Event} {rest : List Event} {i : Instr}

/-- In a run the next move is fetched, if it decodes to a top-level operation. -/
theorem fetch_of_move (hwf : s.cfg.WellFormed) (hrun : s.InRun) (ha : s.agenda = e :: rest)
    (hd : decode s.cfg e.word = .ok i) (hl : level i = .top) : s.fetch = .instr i (s.load e rest) := by
  simp only [State.fetch, if_pos hwf, hrun, ha, State.fetchMove, hd, hl]

/-- What stands on the bench is fetched first, whatever its level. -/
theorem fetch_of_bench (hwf : s.cfg.WellFormed) (hb : s.bench = some e) (hd : decode s.cfg e.word = .ok i) :
    s.fetch = .instr i (s.load e s.agenda) := by
  simp only [State.fetch, if_pos hwf, hb, State.fetchBench, hd]

theorem step_of_move (hwf : s.cfg.WellFormed) (hrun : s.InRun) (ha : s.agenda = e :: rest)
    (hd : decode s.cfg e.word = .ok i) (hl : level i = .top) : step s = exec i (s.load e rest) :=
  step_of_fetch_instr (fetch_of_move hwf hrun ha hd hl)

theorem step_of_bench (hwf : s.cfg.WellFormed) (hb : s.bench = some e) (hd : decode s.cfg e.word = .ok i) :
    step s = exec i (s.load e s.agenda) :=
  step_of_fetch_instr (fetch_of_bench hwf hb hd)

theorem step_of_bench_malformed (hwf : s.cfg.WellFormed) (hb : s.bench = some e)
    (hd : decode s.cfg e.word = .error .malformedFrame) :
    step s = .next (discardFrame (s.load e s.agenda).begin) := by
  simp only [step, State.fetch, if_pos hwf, hb, State.fetchBench, hd]

theorem step_of_waiting (hwf : s.cfg.WellFormed) (hrun : s.InRun) (ha : s.agenda = []) : step s = .next s.begin := by
  simp only [step, State.fetch, if_pos hwf, hrun, ha]

/-- The bench is clear when an instruction runs, so the step loads the moves that are left. -/
theorem load_of_inRun (hrun : s.InRun) (e : Event) (rest : List Event) :
    s.load e rest = { s with agenda := rest, inputs := e.inputs, draws := s.draws + 1 } := by
  rw [State.load, ← hrun]

end

/-- A step that runs no instruction changes no record: it waits, or drops a frame from the bench. -/
structure IdleStep (s t : State) : Prop where
  current : s.current = none
  cfg : t.cfg = s.cfg
  smp : t.smp = s.smp
  hub : t.hub = s.hub
  bench : t.bench = none
  agenda : t.agenda = s.agenda
  outputs : t.outputs = []
  result : t.result = none ∨ t.result = some .discarded

/-- A step is idle or runs one instruction, in a run a top-level one, on the state its event has loaded. -/
theorem step_idle_or_exec {s t : State} (h : step s = .next t) :
    s.cfg.WellFormed ∧ (IdleStep s t
      ∨ ∃ i e rest, s.current = some i ∧ Takes s e rest ∧ decode s.cfg e.word = .ok i ∧ (s.InRun → level i = .top)
          ∧ exec i (s.load e rest) = .next t) := by
  obtain ⟨hwf, ⟨hb, -, rfl, hc⟩ | ⟨e, rest, i, hd, ht, hl, hx, hc⟩ | ⟨e, -, -, rfl, hc⟩⟩ := step_cases h
  · exact ⟨hwf, .inl ⟨hc, rfl, rfl, rfl, hb, rfl, rfl, .inl rfl⟩⟩
  · exact ⟨hwf, .inr ⟨i, e, rest, hc, ht, hd, hl, hx⟩⟩
  · exact ⟨hwf, .inl ⟨hc, rfl, rfl, rfl, rfl, rfl, rfl, .inr rfl⟩⟩

/-- No step writes the configuration, and none fills the bench. -/
theorem step_cfg_bench {s t : State} (h : step s = .next t) : t.cfg = s.cfg ∧ t.bench = none := by
  obtain ⟨-, hidle | ⟨i, e, rest, -, -, -, -, hx⟩⟩ := step_idle_or_exec h
  · exact ⟨hidle.cfg, hidle.bench⟩
  · obtain ⟨-, hcfg, -, hbench, -, -⟩ := exec_frame hx
    exact ⟨hcfg, hbench⟩

/-! ### Runs -/

/-- A run either takes its first step or stands still. -/
theorem run_succ (k : Nat) (s : State) :
    (∃ t, step s = .next t ∧ trace (k + 1) s = (s, t) :: trace k t ∧ final (k + 1) s = final k t)
    ∨ ((∀ t, step s ≠ .next t) ∧ trace (k + 1) s = [] ∧ final (k + 1) s = s) := by
  rw [trace, final]
  cases h : step s with
  | next t => exact .inl ⟨t, rfl, rfl, rfl⟩
  | fault r => exact .inr ⟨by simp, rfl, rfl⟩
  | refused r => exact .inr ⟨by simp, rfl, rfl⟩

theorem trace_succ_of_step {s t : State} (h : step s = .next t) (k : Nat) : trace (k + 1) s = (s, t) :: trace k t := by
  rw [trace, h]

theorem final_succ_of_step {s t : State} (h : step s = .next t) (k : Nat) : final (k + 1) s = final k t := by
  rw [final, h]

/-- The induction over a run: from its first state, over its steps, to the state it ends in. -/
theorem run_induction {P : State → List (State × State) → State → Prop} (nil : ∀ s, P s [] s)
    (cons : ∀ s t steps u, step s = .next t → P t steps u → P s ((s, t) :: steps) u) (k : Nat) (s : State) :
    P s (trace k s) (final k s) := by
  induction k generalizing s with
  | zero => exact nil s
  | succ k ih =>
    rcases run_succ k s with ⟨t, hstep, htrace, hfinal⟩ | ⟨-, htrace, hfinal⟩ <;> rw [htrace, hfinal]
    · exact cons s t _ _ hstep (ih t)
    · exact nil s

/-- A history folded over a run tells a function of the state, if it does so over every step of the kind the run is made of. -/
theorem foldl_trace {α : Type} (tell : State → α) (history : α → State × State → α) (kind : State × State → Prop)
    (hstep : ∀ s t, step s = .next t → kind (s, t) → history (tell s) (s, t) = tell t) (k : Nat) (s : State) :
    (∀ p ∈ trace k s, kind p) → (trace k s).foldl history (tell s) = tell (final k s) := by
  refine run_induction (P := fun s steps u => (∀ p ∈ steps, kind p) → steps.foldl history (tell s) = tell u)
    (fun s _ => rfl) (fun s t steps u h ih hkind => ?_) k s
  obtain ⟨hfirst, hrest⟩ := List.forall_mem_cons.1 hkind
  rw [List.foldl_cons, hstep s t h hfirst, ih hrest]

end Machine

open Machine

/-! ### The whole machine -/

/-- Settles O49: `exec` is total, and its effects touch none of these fields. -/
theorem everyInstructionCompletes : Obligations.EveryInstructionCompletes := by
  intro i s
  obtain ⟨t, h⟩ := exec_total i s
  exact ⟨t, h, exec_frame h⟩

/-- Settles O50: the fetch by what stands on the bench and on the agenda. -/
theorem stepRunsTheDecodedInstruction : Obligations.StepRunsTheDecodedInstruction := by
  intro s hwf
  refine ⟨fun hrun ha => step_of_waiting hwf hrun ha, fun e rest i hrun ha hd hl => ?move,
    fun e hb => ⟨fun i hd => step_of_bench hwf hb hd, fun hd => step_of_bench_malformed hwf hb hd⟩⟩
  case move => rw [step_of_move hwf hrun ha hd hl, load_of_inRun hrun]

/-- Settles O51: by O1 the word placed decodes to the instruction. -/
theorem placedInstructionRunsNext : Obligations.PlacedInstructionRunsNext := by
  intro i s hwf hi
  have hload : (s.placeEvent (encode s.cfg i)).load ⟨encode s.cfg i, s.inputs⟩ s.agenda
      = { s with bench := none, draws := s.draws + 1 } := rfl
  rw [← hload]
  exact step_of_bench hwf rfl (encodeThenDecode s.cfg i hwf hi)

/-- Settles O53: by induction over the run. -/
theorem configurationIsNeverWritten : Obligations.ConfigurationIsNeverWritten := by
  refine run_induction (P := fun s steps u => u.cfg = s.cfg ∧ ∀ p ∈ steps, p.1.cfg = s.cfg ∧ p.2.cfg = s.cfg)
    (fun s => ⟨rfl, by simp⟩) (fun s t steps u h ih => ?_)
  obtain ⟨hcfg, -⟩ := step_cfg_bench h
  rw [hcfg] at ih
  exact ⟨ih.1, List.forall_mem_cons.2 ⟨⟨rfl, hcfg⟩, ih.2⟩⟩

/-- Settles O54: each effect is a change of its own node's record. -/
theorem nodesShareNothing : Obligations.NodesShareNothing := fun _ _ _ h => exec_other_node h

/-- Settles O58: both queues are empty, the sampler is in Idle, the buttons are at rest. -/
theorem resetMeetsTheInvariant : Obligations.ResetMeetsTheInvariant := by
  have hpower (c : Config) (hwf : c.WellFormed) : (State.powerOn c).Inv :=
    ⟨hwf, Queue.ring_ofSlots _, Queue.ring_ofSlots _, nofun, ⟨Nat.zero_le _, fun _ => rfl⟩, ⟨Nat.zero_le _, fun _ => rfl⟩⟩
  exact ⟨hpower, hpower Config.reference (by decide)⟩

end Sys2Proof
end

section
/-! PROOFS on refusals and queues: what a step refuses, what an instruction can do to a queue, the ring and the order of frames
over a run; O16, O19 to O21, O52, O56. -/

namespace Sys2Proof

namespace Machine

/-! ### What a step refuses -/

/-- The three reasons a step is refused for; no instruction refuses. -/
theorem step_refused_cases {s : State} {r : Refusal} (h : step s = .refused r) :
    (¬ s.cfg.WellFormed ∧ r = .illFormedConfiguration)
    ∨ (∃ e rest i, s.cfg.WellFormed ∧ s.InRun ∧ s.agenda = e :: rest ∧ decode s.cfg e.word = .ok i ∧ level i = .sub
        ∧ r = .notTopLevel i)
    ∨ (∃ e rest d, s.cfg.WellFormed ∧ Takes s e rest ∧ decode s.cfg e.word = .error d ∧ (s.InRun ∨ d ≠ .malformedFrame)
        ∧ r = .undecodable d) := by
  unfold step at h
  rcases s.fetch_cases with ⟨hwf, hf⟩ | ⟨-, -, -, hf⟩ | ⟨e, rest, i, -, -, -, -, hf⟩ | ⟨e, -, -, -, hf⟩
    | ⟨e, rest, i, hwf, hb, ha, hd, hl, hf⟩ | ⟨e, rest, d, hwf, ht, hd, hm, hf⟩ <;> rw [hf] at h
  case inl => exact .inl ⟨hwf, by cases h; rfl⟩
  case inr.inl => cases h
  case inr.inr.inl =>
    obtain ⟨t, ht⟩ := exec_total i (s.load e rest)
    cases ht.symm.trans h
  case inr.inr.inr.inl => cases h
  case inr.inr.inr.inr.inl => exact .inr (.inl ⟨e, rest, i, hwf, hb, ha, hd, hl, by cases h; rfl⟩)
  case inr.inr.inr.inr.inr => exact .inr (.inr ⟨e, rest, d, hwf, ht, hd, hm, by cases h; rfl⟩)

section
variable {s : State} {e : Event} {rest : List Event}

theorem step_of_illFormed (hwf : ¬ s.cfg.WellFormed) : step s = .refused .illFormedConfiguration := by
  simp only [step, State.fetch, if_neg hwf]

theorem step_of_sub_move {i : Instr} (hwf : s.cfg.WellFormed) (hrun : s.InRun) (ha : s.agenda = e :: rest)
    (hd : decode s.cfg e.word = .ok i) (hl : level i = .sub) : step s = .refused (.notTopLevel i) := by
  simp only [step, State.fetch, if_pos hwf, hrun, ha, State.fetchMove, hd, hl]

theorem step_of_undecodable_move {d : Reject} (hwf : s.cfg.WellFormed) (hrun : s.InRun) (ha : s.agenda = e :: rest)
    (hd : decode s.cfg e.word = .error d) : step s = .refused (.undecodable d) := by
  simp only [step, State.fetch, if_pos hwf, hrun, ha, State.fetchMove, hd]

theorem step_of_undecodable_bench {d : Reject} (hwf : s.cfg.WellFormed) (hb : s.bench = some e)
    (hd : decode s.cfg e.word = .error d) (hm : d ≠ .malformedFrame) : step s = .refused (.undecodable d) := by
  cases d with
  | malformedFrame => exact absurd rfl hm
  | _ => simp only [step, State.fetch, if_pos hwf, hb, State.fetchBench, hd]

end

/-- In a run every step runs a top-level operation or waits, and the run goes on (R163, R273). -/
theorem step_inRun {s t : State} (hrun : s.InRun) (h : step s = .next t) :
    t.InRun ∧ ∀ i, s.current = some i → level i = .top := by
  refine ⟨(step_cfg_bench h).2, fun i hi => ?_⟩
  obtain ⟨-, hidle | ⟨j, e, rest, hj, -, -, hl, -⟩⟩ := step_idle_or_exec h
  · rw [hidle.current] at hi
    cases hi
  · obtain rfl := Option.some.inj (hj.symm.trans hi)
    exact hl hrun

end Machine

open Machine

/-- Settles O52: each refusal has its one cause, and where there is none the step goes on. -/
theorem stepRefusesOnlyOutsideTheRules : Obligations.StepRefusesOnlyOutsideTheRules := by
  intro s
  refine ⟨fun r => (nomatch r), ⟨fun h => ?illFormed, step_of_illFormed⟩, fun i => ⟨fun h => ?notTop, ?sub⟩,
    fun r => ⟨fun h => ?undecodable, ?rejected⟩, fun hrun t => step_inRun hrun, fun hwf hrun hall => ?goesOn⟩
  case illFormed =>
    rcases step_refused_cases h with ⟨hwf, -⟩ | ⟨e, rest, i, -, -, -, -, -, hr⟩ | ⟨e, rest, d, -, -, -, -, hr⟩
    · exact hwf
    · cases hr
    · cases hr
  case notTop =>
    rcases step_refused_cases h with ⟨-, hr⟩ | ⟨e, rest, j, hwf, hrun, ha, hd, hl, hr⟩ | ⟨e, rest, d, -, -, -, -, hr⟩
    · cases hr
    · cases hr
      exact ⟨hwf, hrun, e, rest, ha, hd, hl⟩
    · cases hr
  case sub =>
    rintro ⟨hwf, hrun, e, rest, ha, hd, hl⟩
    exact step_of_sub_move hwf hrun ha hd hl
  case undecodable =>
    rcases step_refused_cases h with ⟨-, hr⟩ | ⟨e, rest, i, -, -, -, -, -, hr⟩ | ⟨e, rest, d, hwf, ht, hd, hm, hr⟩
    · cases hr
    · cases hr
    · cases hr
      refine ⟨hwf, ?_⟩
      cases ht with
      | bench hb => exact .inr ⟨e, hb, hd, hm.resolve_left (by simp [State.InRun, hb])⟩
      | move _ hb ha => exact .inl ⟨hb, e, rest, ha, hd⟩
  case rejected =>
    rintro ⟨hwf, ⟨hrun, e, rest, ha, hd⟩ | ⟨e, hb, hd, hm⟩⟩
    · exact step_of_undecodable_move hwf hrun ha hd
    · exact step_of_undecodable_bench hwf hb hd hm
  case goesOn =>
    cases ha : s.agenda with
    | nil => exact ⟨_, step_of_waiting hwf hrun ha⟩
    | cons e rest =>
      obtain ⟨i, hd, hl⟩ := hall e (by simp [ha])
      rw [step_of_move hwf hrun ha hd hl]
      exact exec_total i _

namespace Machine

/-! ### What an instruction does to a queue -/

/-- What happens to the queue of node `n` when `i` takes `s` to `t`. -/
inductive QueueMove (n : Node) (i : Instr) (s t : State) : Prop
  /-- nothing; what may store found the queue full, what takes found it empty -/
  | kept : t.queue n = s.queue n →
      (∀ f, i = .enq n f ∨ i = reception f n → t.result ≠ some (.enqueued true)) →
      (∀ f, i = .deq n → t.result ≠ some (.dequeued (some f))) →
      (i = drain n → (s.queue n).deq = none) → QueueMove n i s t
  | stored (f : Frame) : i = .enq n f ∨ i = reception f n → (s.queue n).enq f = some (t.queue n) →
      t.result = some (.enqueued true) → QueueMove n i s t
  | taken (f : Frame) : (i = .deq n ∧ t.result = some (.dequeued (some f))) ∨ i = drain n →
      (s.queue n).deq = some (f, t.queue n) → QueueMove n i s t
  | reset (slots : Vector Frame 8) : i = .reset n → t.queue n = Queue.ofSlots slots →
      t.result = some (.resetDone n) → QueueMove n i s t

section
variable {i : Instr} {s u t : State} {m n : Node}

theorem drain_ne_drain (h : m ≠ n) : drain m ≠ drain n := by
  cases m <;> cases n <;> simp [drain] at *

theorem owner_of_takes (h : i = .deq n ∨ i = drain n) : owner i = some n := by
  rcases h with rfl | rfl
  · rfl
  · cases n <;> rfl

theorem owner_of_stores {f : Frame} (h : i = .enq n f ∨ i = reception f n) : owner i = some n := by
  rcases h with rfl | rfl
  · rfl
  · cases n <;> rfl

/-- What belongs to another node, or to none, leaves the queue and is no operation on it. -/
theorem QueueMove.of_owner_ne (h : t.queue n = s.queue n) (hown : owner i ≠ some n) : QueueMove n i s t :=
  .kept h (fun _ hi => absurd (owner_of_stores hi) hown) (fun _ hi => absurd (owner_of_takes (.inl hi)) hown)
    (fun hi => absurd (owner_of_takes (.inr hi)) hown)

/-- A handler leaves the queues as its start has them, so all it does to them is what its drain took. -/
theorem Base.queueMove (h : Base i s m u) (hq : t.queue n = u.queue n) (henq : t.result ≠ some (.enqueued true))
    (hdeq : ∀ f, t.result ≠ some (.dequeued (some f))) : QueueMove n i s t := by
  cases h with
  | direct _ hsd hhd _ _ =>
    refine .kept (hq.trans (s.queue_begin n)) (fun _ _ => henq) (fun f _ => hdeq f) fun hi => ?_
    cases n
    · exact absurd hi hsd
    · exact absurd hi hhd
  | drained f q hi hd =>
    have hi : i = drain m := by rcases hi with ⟨rfl, rfl⟩ | ⟨rfl, rfl⟩ <;> rfl
    by_cases hmn : n = m
    · subst hmn
      rw [State.queue_setQueue_same] at hq
      exact .taken f (.inr hi) (hq ▸ hd)
    · rw [State.queue_setQueue_other _ _ _ _ hmn, State.queue_begin] at hq
      exact .kept hq (fun _ _ => henq) (fun f _ => hdeq f) fun hi' => absurd (hi.symm.trans hi') (drain_ne_drain (Ne.symm hmn))

/-- The two ways to store a frame, whatever the node. -/
theorem stores_of_eq {f : Frame} (h : i = .enq n f ∨ (n = .sampler ∧ i = .smpRx f) ∨ (n = .hub ∧ i = .hubRx f)) :
    i = .enq n f ∨ i = reception f n := by
  rcases h with rfl | ⟨rfl, rfl⟩ | ⟨rfl, rfl⟩
  · exact .inl rfl
  · exact .inr rfl
  · exact .inr rfl

/-- Everything an instruction can do to a queue. -/
theorem queueMove_of_exec (n : Node) (h : exec i s = .next t) : QueueMove n i s t := by
  cases did_of_exec h with
  | answered r hr hdeq hsmp hhub =>
    refine .kept (by simp) ?_ (fun f _ => ?_) fun hi => ?_
    · rintro f - ⟨⟩
      cases hr
    · rintro ⟨⟩
      cases hr
    · cases n
      · exact hsmp hi
      · exact hhub hi
  | stored m f q hi hq =>
    by_cases hmn : n = m
    · subst hmn
      exact .stored f (stores_of_eq hi) (by simpa using hq) rfl
    · refine .of_owner_ne (by simp [State.queue_setQueue_other _ _ _ _ hmn]) ?_
      rw [owner_of_stored hi]
      simpa using Ne.symm hmn
  | taken m f q hi hq =>
    by_cases hmn : n = m
    · subst hmn
      exact .taken f (.inl ⟨hi, rfl⟩) (by simpa using hq)
    · refine .of_owner_ne (by simp [State.queue_setQueue_other _ _ _ _ hmn]) ?_
      rw [hi]
      simpa [owner] using Ne.symm hmn
  | discarded m u _ hu => exact hu.queueMove (by simp) (by simp) (by simp)
  | started u hu _ | alreadyActive u hu _ | stopped u hu _ | stoppedInIdle u hu _ | stopIgnored u hu _ | rejected u hu
  | stopRefused u _ hu _ => exact hu.queueMove (by simp) (by simp) (by simp)
  | skipped e hi _ => exact .kept (by simp) (by simp) (by simp) (by subst hi; cases n <;> simp [drain])
  | sampled raw hi _ _ => exact .kept (by simp) (by simp) (by simp) (by subst hi; cases n <;> simp [drain])
  | polled b r hi _ _ | pollPressed b r hi _ _ | pollReleased b r hi _ _ =>
    exact .kept (by cases n <;> simp) (by simp) (by simp) (by subst hi; cases n <;> simp [drain])
  | pressed b hi => exact .kept (by simp) (by simp) (by simp) (by subst hi; cases n <;> simp [drain])
  | recorded u v hu => exact hu.queueMove (by cases n <;> rfl) (by simp) (by simp)
  | recordedWithText u v k hu => exact hu.queueMove (by cases n <;> rfl) (by simp) (by simp)
  | acked u a hu _ => exact hu.queueMove (by simp) (by simp) (by simp)
  | ackedStop u hu => exact hu.queueMove (by simp) (by simp) (by simp)
  | resetSampler slots hi =>
    cases n
    · exact .reset slots hi rfl rfl
    · exact .of_owner_ne rfl (by simp [hi, owner])
  | resetHub slots v w hi =>
    cases n
    · exact .of_owner_ne rfl (by simp [hi, owner])
    · exact .reset slots hi rfl rfl

theorem QueueMove.ring (h : QueueMove n i s t) (hs : (s.queue n).Ring) : (t.queue n).Ring := by
  cases h with
  | kept hq _ _ _ => rwa [hq]
  | stored f _ hq _ => exact hs.enq hq
  | taken f _ hq => exact hs.deq hq
  | reset slots _ hq _ => rw [hq]; exact Queue.ring_ofSlots slots

end

/-! ### What a step does to a queue -/

/-- A step leaves a queue, or does to it what its instruction does. -/
theorem step_queueMove {s t : State} (n : Node) (h : step s = .next t) :
    (s.current = none ∧ t.queue n = s.queue n) ∨ ∃ i, s.current = some i ∧ (s.InRun → level i = .top) ∧ QueueMove n i s t := by
  obtain ⟨-, hidle | ⟨i, e, rest, hi, -, -, hl, hx⟩⟩ := step_idle_or_exec h
  · refine .inl ⟨hidle.current, ?_⟩
    cases n
    · exact congrArg Sampler.q hidle.smp
    · exact congrArg Hub.q hidle.hub
  · refine .inr ⟨i, hi, hl, ?_⟩
    have hload := s.queue_load e rest n
    cases queueMove_of_exec n hx with
    | kept hq henq hdeq hdrain => exact .kept (hq.trans hload) henq hdeq (hload ▸ hdrain)
    | stored f hf hq hr => exact .stored f hf (hload ▸ hq) hr
    | taken f hf hq => exact .taken f hf (hload ▸ hq)
    | reset slots hi hq hr => exact .reset slots hi hq hr

theorem step_ring {s t : State} (n : Node) (h : step s = .next t) (hs : (s.queue n).Ring) : (t.queue n).Ring := by
  rcases step_queueMove n h with ⟨-, hq⟩ | ⟨i, -, -, hmove⟩
  · rwa [hq]
  · exact hmove.ring hs

/-! ### The history of a queue -/

section
variable {n : Node} {i : Instr} {s t : State} {f : Frame}

theorem accepted_of_current_none (h : s.current = none) : accepted n (s, t) = [] := by
  simp [accepted, h]

theorem taken_of_current_none (h : s.current = none) : taken n (s, t) = [] := by
  simp [taken, h]

/-- A step accepts a frame only as an enqueue or a reception of its node that answers true. -/
theorem accepted_eq_nil (hi : s.current = some i)
    (h : ∀ f, i = .enq n f ∨ i = reception f n → t.result ≠ some (.enqueued true)) : accepted n (s, t) = [] := by
  unfold accepted
  split
  case isFalse => rfl
  case isTrue hr =>
    simp only [hi]
    cases i with
    | enq m f => exact if_neg fun hmn => h f (.inl (congrArg (Instr.enq · f) hmn)) hr
    | smpRx f => exact if_neg fun hn => h f (.inr (by rw [hn]; rfl)) hr
    | hubRx f => exact if_neg fun hn => h f (.inr (by rw [hn]; rfl)) hr
    | _ => rfl

theorem accepted_eq_singleton (hi : s.current = some i) (hr : t.result = some (.enqueued true))
    (h : i = .enq n f ∨ i = reception f n) : accepted n (s, t) = [f] := by
  rcases h with rfl | rfl
  · simp [accepted, hi, hr]
  · cases n <;> simp [accepted, hi, hr, reception]

/-- A step takes a frame only as a `DEQ` of its node that answers one or as that node's drain. -/
theorem taken_eq_nil (hi : s.current = some i) (hdeq : ∀ f, i = .deq n → t.result ≠ some (.dequeued (some f)))
    (hdrain : i = drain n → (s.queue n).contents = []) : taken n (s, t) = [] := by
  unfold taken
  simp only [hi]
  cases i with
  | deq m =>
    by_cases hmn : m = n
    · subst hmn
      simp only [if_true]
      split
      case h_1 f hr => exact absurd hr (hdeq f rfl)
      case h_2 => rfl
    · exact if_neg hmn
  | smpDrain =>
    by_cases hn : n = .sampler
    · simp only [if_pos hn, hdrain (by rw [hn]; rfl), List.take_nil]
    · exact if_neg hn
  | hubDrain =>
    by_cases hn : n = .hub
    · simp only [if_pos hn, hdrain (by rw [hn]; rfl), List.take_nil]
    · exact if_neg hn
  | _ => rfl

theorem taken_eq_singleton {rest : List Frame} (hi : s.current = some i) (hcontents : (s.queue n).contents = f :: rest)
    (h : (i = .deq n ∧ t.result = some (.dequeued (some f))) ∨ i = drain n) : taken n (s, t) = [f] := by
  rcases h with ⟨rfl, hr⟩ | rfl
  · simp [taken, hi, hr]
  · cases n <;> simp only [State.queue_sampler, State.queue_hub] at hcontents <;> simp [taken, hi, drain, hcontents]

theorem Queue.contents_eq_nil_of_deq {q : Queue} (h : q.deq = none) : q.contents = [] := by
  rw [← List.length_eq_zero_iff, Queue.contents_length, (Queue.deq_eq_none q).1 h]

/-- No frame is stored in a step that takes one, and the other way round. -/
theorem accepted_eq_nil_of_takes (hi : s.current = some i) (h : i = .deq n ∨ i = drain n) : accepted n (s, t) = [] := by
  refine accepted_eq_nil hi fun f hf => ?_
  rcases h with rfl | rfl <;> cases n <;> simp [reception, drain] at hf

theorem taken_eq_nil_of_stores (hi : s.current = some i) (h : i = .enq n f ∨ i = reception f n) : taken n (s, t) = [] := by
  refine taken_eq_nil hi (fun g hg => ?_) fun hg => ?_
  · rcases h with rfl | rfl <;> cases n <;> simp [reception] at hg
  · rcases h with rfl | rfl <;> cases n <;> simp [reception, drain] at hg

/-- One step of the order of frames (R167): what stood in the queue and what came in is what went out and what stands there now. -/
theorem step_fifo (hs : (s.queue n).Ring) (h : step s = .next t) (hreset : resets n (s, t) = false) :
    (s.queue n).contents ++ accepted n (s, t) = taken n (s, t) ++ (t.queue n).contents := by
  rcases step_queueMove n h with ⟨hi, hq⟩ | ⟨i, hi, -, hmove⟩
  · rw [accepted_of_current_none hi, taken_of_current_none hi, hq, List.append_nil, List.nil_append]
  · cases hmove with
    | kept hq henq hdeq hdrain =>
      rw [accepted_eq_nil hi henq, taken_eq_nil hi hdeq fun hd => Queue.contents_eq_nil_of_deq (hdrain hd), hq,
        List.append_nil, List.nil_append]
    | stored f hf hq hr =>
      rw [accepted_eq_singleton hi hr hf, taken_eq_nil_of_stores hi hf, Queue.contents_enq hs hq, List.nil_append]
    | taken f hf hq =>
      have hcontents := Queue.contents_deq hq
      rw [taken_eq_singleton hi hcontents hf, accepted_eq_nil_of_takes hi (hf.imp_left And.left), hcontents, List.append_nil,
        List.singleton_append]
    | reset slots _ _ hr => simp [resets, hr] at hreset

/-- The order of frames over a run (R167). -/
theorem run_fifo (n : Node) (k : Nat) (s : State) : (s.queue n).Ring → (∀ p ∈ trace k s, resets n p = false) →
    (s.queue n).contents ++ (trace k s).flatMap (accepted n)
      = (trace k s).flatMap (taken n) ++ ((final k s).queue n).contents := by
  refine run_induction (P := fun s steps u => (s.queue n).Ring → (∀ p ∈ steps, resets n p = false) →
    (s.queue n).contents ++ steps.flatMap (accepted n) = steps.flatMap (taken n) ++ (u.queue n).contents)
    (fun s _ _ => by simp) (fun s t steps u h ih hs hresets => ?_) k s
  obtain ⟨hfirst, hrest⟩ := List.forall_mem_cons.1 hresets
  calc (s.queue n).contents ++ ((s, t) :: steps).flatMap (accepted n)
      = ((s.queue n).contents ++ accepted n (s, t)) ++ steps.flatMap (accepted n) := by simp
    _ = taken n (s, t) ++ ((t.queue n).contents ++ steps.flatMap (accepted n)) := by
        rw [step_fifo hs h hfirst, List.append_assoc]
    _ = taken n (s, t) ++ (steps.flatMap (taken n) ++ (u.queue n).contents) := by rw [ih (step_ring n h hs) hrest]
    _ = ((s, t) :: steps).flatMap (taken n) ++ (u.queue n).contents := by simp

end

/-! ### The live entries of a ring -/

/-- The live entry `k` stands `k` slots after the tail, modulo 8 (R27). -/
theorem Queue.contents_getElem (q : Queue) {k : Nat} (hk : k < q.count.val) :
    ∃ j : Fin 8, j.val = (q.tail.val + k) % 8 ∧ q.contents[k]? = some (q.memRead j) :=
  ⟨Fin.ofNat 8 (q.tail.val + k), rfl, by simp [Queue.contents, Queue.at, hk]⟩

/-- Head and tail of a ring meet exactly when it is empty or full (R27). -/
theorem Queue.Ring.head_eq_tail_iff {q : Queue} (h : q.Ring) : q.head = q.tail ↔ q.count.val = 0 ∨ q.count.val = 8 := by
  have hcount := q.count.isLt
  have htail := q.tail.isLt
  rw [Fin.ext_iff, h]
  omega

end Machine

/-- Settles O19: one step by what it does to each queue; reset queues are empty rings. -/
theorem queueRingKept : Obligations.QueueRingKept := by
  refine ⟨fun s t h hsmp hhub => ⟨step_ring .sampler h hsmp, step_ring .hub h hhub⟩,
    fun c => ⟨Queue.ring_ofSlots _, Queue.ring_ofSlots _⟩, fun q hq => ⟨Nat.le_of_lt_succ q.count.isLt, q.contents_length,
      fun k => q.contents_getElem, hq.head_eq_tail_iff⟩⟩

/-- Settles O20: the balance over the run; from an empty queue the frames taken begin the frames accepted. -/
theorem queueIsFirstInFirstOut : Obligations.QueueIsFirstInFirstOut := by
  intro n k s hs hresets
  have hfifo := run_fifo n k s hs hresets
  refine ⟨hfifo, fun hempty j f hj => ?_⟩
  rw [hempty, List.nil_append] at hfifo
  rw [hfifo, List.getElem?_append_left (List.getElem?_eq_some_iff.1 hj).1, hj]

/-- Settles O21: the lengths of the two sides of O20's balance. -/
theorem queueCapacityLaw : Obligations.QueueCapacityLaw := by
  intro n k s hs hresets
  have hlengths := congrArg List.length (run_fifo n k s hs hresets)
  rw [List.length_append, List.length_append, Queue.contents_length, Queue.contents_length] at hlengths
  exact ⟨hlengths, Nat.le_of_lt_succ ((final k s).queue n).count.isLt⟩

/-! ### Who moves a queue -/

namespace Machine

theorem enqueueAt_outputs (n : Node) (f : Frame) (s : State) : (enqueueAt n f s).outputs = s.outputs := by
  rcases enqueueAt_cases n f s with ⟨-, e⟩ | ⟨q, -, e⟩ <;> rw [e] <;> simp

section
variable {n : Node} {i : Instr} {s t : State}

/-- In a run a head or a slot moves only by the node's reception, `RESET` apart. -/
theorem QueueMove.reception_of_head_or_slots (h : QueueMove n i s t) (hl : level i = .top)
    (hmoved : (t.queue n).head ≠ (s.queue n).head ∨ (t.queue n).slots ≠ (s.queue n).slots) :
    i = .reset n ∨ ∃ f, i = reception f n := by
  cases h with
  | kept hq _ _ _ => simp [hq] at hmoved
  | stored f hf _ _ =>
    rcases hf with rfl | rfl
    · cases hl
    · exact .inr ⟨f, rfl⟩
  | taken f _ hq =>
    obtain ⟨-, -, hr⟩ := (Queue.deq_eq_some _ _ _).1 hq
    simp [hr] at hmoved
  | reset _ hi _ _ => exact .inl hi

/-- In a run a tail moves only by the node's drain, `RESET` apart. -/
theorem QueueMove.drain_of_tail (h : QueueMove n i s t) (hl : level i = .top)
    (hmoved : (t.queue n).tail ≠ (s.queue n).tail) : i = .reset n ∨ i = drain n := by
  cases h with
  | kept hq _ _ _ => exact absurd (congrArg Queue.tail hq) hmoved
  | stored f _ hq _ => exact absurd (Queue.indices_of_enq hq).2.1 hmoved
  | taken f hf _ =>
    rcases hf with ⟨rfl, -⟩ | hi
    · cases hl
    · exact .inr hi
  | reset _ hi _ _ => exact .inl hi

end

end Machine

/-- Settles O16: both receptions are the enqueue; in a run `ENQ` and `DEQ` do not stand alone. -/
theorem receptionEnqueues : Obligations.ReceptionEnqueues := by
  refine ⟨fun f s => ⟨⟨enqueueAt .sampler f s.begin, rfl, exec_enq .sampler f s, ?_⟩,
    ⟨enqueueAt .hub f s.begin, rfl, exec_enq .hub f s, ?_⟩⟩, fun n s t hrun h => ?who⟩
  · exact enqueueAt_outputs .sampler f s.begin
  · exact enqueueAt_outputs .hub f s.begin
  case who =>
    rcases step_queueMove n h with ⟨-, hq⟩ | ⟨i, hi, hl, hmove⟩
    · simp [hq]
    · simp only [hi, Option.some.injEq]
      exact ⟨hmove.reception_of_head_or_slots (hl hrun), hmove.drain_of_tail (hl hrun)⟩

/-! ### What an interrupt may touch -/

namespace Machine

theorem context_interrupt {i : Instr} (h : context i = some .interrupt) :
    (∃ n f, i = reception f n) ∨ i = .hubEdge ∨ i = .smpTick := by
  cases i with
  | smpRx f => exact .inl ⟨.sampler, f, rfl⟩
  | hubRx f => exact .inl ⟨.hub, f, rfl⟩
  | hubEdge => exact .inr (.inl rfl)
  | smpTick => exact .inr (.inr rfl)
  | _ => cases h

theorem exec_reception (n : Node) (f : Frame) (s : State) : exec (reception f n) s = .next (enqueueAt n f s.begin) := by
  cases n <;> rfl

/-- Setting a queue touches the two nodes' records alone, so it does not see what a step has cleared. -/
theorem State.begin_setQueue_records (s : State) (n : Node) (q : Queue) :
    (s.begin.setQueue n q).smp = (s.setQueue n q).smp ∧ (s.begin.setQueue n q).hub = (s.setQueue n q).hub := by
  cases n <;> exact ⟨rfl, rfl⟩

theorem exec_smpTick_records {s t : State} (h : exec .smpTick s = .next t) :
    t.hub = s.hub ∧ (t.smp = s.smp ∨ t.smp = { s.smp with sampleCounter := s.smp.sampleCounter + 1 }) := by
  obtain rfl := Host.Outcome.next.inj ((exec_smpTick s).symm.trans h)
  rcases samplerTick_cases s.begin with ⟨-, e⟩ | ⟨_, -, -, e⟩ | ⟨_, -, -, -, e⟩ | ⟨_, -, -, -, e⟩ <;> rw [e]
  · exact ⟨rfl, .inl rfl⟩
  · exact ⟨rfl, .inl rfl⟩
  · exact ⟨rfl, .inl rfl⟩
  · exact ⟨rfl, .inr rfl⟩

end Machine

/-- Settles O56: a reception is the enqueue, which finds the queue full or puts the frame at its head. -/
theorem interruptsKeepToTheirState : Obligations.InterruptsKeepToTheirState := by
  intro i s t hi h
  refine ⟨?reception, ?edge, ?tick, context_interrupt hi⟩
  case reception =>
    rintro n f rfl
    obtain rfl := Host.Outcome.next.inj ((exec_reception n f s).symm.trans h)
    rcases enqueueAt_cases n f s.begin with ⟨hq, e⟩ | ⟨q, hq, e⟩ <;> rw [e] <;> rw [State.queue_begin] at hq
    · have hfull := (Queue.enq_eq_none _ f).1 hq
      refine ⟨s.queue n, ?_, ?_, fun _ _ => rfl, rfl, fun _ => rfl, fun hroom => by omega⟩ <;> simp
    · obtain ⟨hstored, hothers⟩ := Queue.memRead_of_enq hq
      obtain ⟨hhead, htail, hcount⟩ := Queue.indices_of_enq hq
      have hroom := ((Queue.enq_eq_some _ _ _).1 hq).1
      obtain ⟨hsmp, hhub⟩ := s.begin_setQueue_records n q
      exact ⟨q, hsmp, hhub, hothers, htail, fun hfull => by omega, fun _ => ⟨hstored, hhead, hcount⟩⟩
  case edge =>
    rintro rfl
    obtain rfl := Host.Outcome.next.inj ((edgeInterruptHasNoEffect s).symm.trans h)
    exact ⟨rfl, rfl⟩
  case tick =>
    rintro rfl
    exact exec_smpTick_records h

end Sys2Proof
end

section
/-! PROOFS on the sampler: mode, timer and counter through a step, what is transmitted, the drains; O27 to O33, O46. -/

namespace Sys2Proof

namespace Machine

/-! ### Mode and timer through an instruction -/

section
variable {r : Result} (h : r.tells = false)
include h

theorem Result.ne_resetDone_of_not_tells (n : Node) : r ≠ .resetDone n := fun e => by cases e; cases h

theorem Result.ne_data_of_not_tells (v : AdcValue) : r ≠ .data v := fun e => by cases e; cases h

theorem Result.ne_acked_of_not_tells (a : Ack) : r ≠ .acked a := fun e => by cases e; cases h

theorem Result.ne_sampled_of_not_tells (raw : Nat) (x : TxResult) : r ≠ .sampled raw x := fun e => by cases e; cases h

end

/-- What an instruction can do to the sampler's state and, by its outputs, to the timer (R189, R193 (a), (c)). -/
inductive ModeMove (i : Instr) (s t : State) : Prop
  | kept : t.smp.mode = s.smp.mode → .arm ∉ t.outputs → .disarm ∉ t.outputs → t.result ≠ some (.resetDone .sampler) →
      ModeMove i s t
  | started : Handles i .sampler → s.smp.mode = .idle → t.smp.mode = .sampling →
      t.outputs = [.arm, .tx (encAck s.cfg .startOk)] → t.result = some (.started s.inputs.tx) → ModeMove i s t
  | stopped : Handles i .sampler → s.smp.mode = .sampling → t.smp.mode = .idle →
      t.outputs = [.disarm, .tx (encAck s.cfg .stopOk)] → t.result = some (.stopped s.inputs.tx) → ModeMove i s t
  | reset : i = .reset .sampler → t.smp.mode = .idle → t.result = some (.resetDone .sampler) → ModeMove i s t

theorem modeMove_of_exec {i : Instr} {s t : State} (h : exec i s = .next t) : ModeMove i s t := by
  cases effect_of_exec h with
  | started q hi hm => exact .started hi hm (by simp) (by simp) rfl
  | stopped q hi hm => exact .stopped hi hm (by simp) (by simp) rfl
  | resetSampler slots hi => exact .reset hi rfl rfl
  | silent n q r hq hr => exact .kept (by simp) (by simp) (by simp) (by simpa using Result.ne_resetDone_of_not_tells hr .sampler)
  | replied q a r hi hr _ => exact .kept (by simp) (by simp) (by simp) (by simpa using Result.ne_resetDone_of_not_tells hr .sampler)
  | _ => exact .kept (by simp) (by simp) (by simp) (by simp)

/-- A top-level operation that runs a node's handlers is that node's drain (R180, R273). -/
theorem Handles.eq_drain {i : Instr} {n : Node} (h : Handles i n) (hl : level i = .top) : i = drain n := by
  rcases h.2 with hsub | hi
  · rw [hl] at hsub
    cases hsub
  · exact hi

/-- In a run only the drain and `RESET` change the sampler's state (R180). -/
theorem ModeMove.drain_or_reset {i : Instr} {s t : State} (h : ModeMove i s t) (hl : level i = .top)
    (hne : t.smp.mode ≠ s.smp.mode) : i = .smpDrain ∨ i = .reset .sampler := by
  cases h with
  | kept hm => exact absurd hm hne
  | started hi | stopped hi => exact .inl (hi.eq_drain hl)
  | reset hi => exact .inr hi

/-! ### Mode and timer through a step and a run -/

/-- A step leaves the sampler's state and the timer, or does to them what its instruction does. -/
theorem step_modeMove {s t : State} (h : step s = .next t) :
    (s.current = none ∧ t.smp.mode = s.smp.mode ∧ t.outputs = [] ∧ t.result ≠ some (.resetDone .sampler))
    ∨ ∃ i e rest, s.current = some i ∧ (s.InRun → level i = .top) ∧ ModeMove i (s.load e rest) t := by
  obtain ⟨-, hidle | ⟨i, e, rest, hi, -, -, hl, hx⟩⟩ := step_idle_or_exec h
  · refine .inl ⟨hidle.current, congrArg Sampler.mode hidle.smp, hidle.outputs, ?_⟩
    rcases hidle.result with hr | hr <;> simp [hr]
  · exact .inr ⟨i, e, rest, hi, hl, modeMove_of_exec hx⟩

/-- Outputs without `Arm` and `Disarm` leave the timer. -/
theorem foldl_timerAfterOutput {outputs : List Output} (harm : .arm ∉ outputs) (hdisarm : .disarm ∉ outputs) (armed : Bool) :
    outputs.foldl timerAfterOutput (some armed) = some armed := by
  induction outputs with
  | nil => rfl
  | cons o os ih =>
    rw [List.mem_cons, not_or] at harm hdisarm
    have ho : timerAfterOutput (some armed) o = some armed := by
      cases o with
      | arm => exact absurd rfl harm.1
      | disarm => exact absurd rfl hdisarm.1
      | _ => rfl
    rw [List.foldl_cons, ho, ih harm.2 hdisarm.2]

theorem timerAfter_of_not_reset {s t : State} (h : t.result ≠ some (.resetDone .sampler)) (armed : Option Bool) :
    timerAfter armed (s, t) = t.outputs.foldl timerAfterOutput armed := by
  simp [timerAfter, resets, h]

theorem timerAfter_of_reset {s t : State} (h : t.result = some (.resetDone .sampler)) (armed : Bool) :
    timerAfter (some armed) (s, t) = some false := by
  simp [timerAfter, resets, h]

/-- One step of the timer law (R193 (a), (c)): the outputs arm it exactly as the state moves. -/
theorem step_timer {s t : State} (h : step s = .next t) :
    timerAfter (some (s.smp.mode == .sampling)) (s, t) = some (t.smp.mode == .sampling) := by
  rcases step_modeMove h with ⟨-, hm, hout, hr⟩ | ⟨i, e, rest, -, -, hmove⟩
  · rw [timerAfter_of_not_reset hr, hout, hm]
    rfl
  · cases hmove with
    | kept hm harm hdisarm hr =>
      rw [timerAfter_of_not_reset hr, foldl_timerAfterOutput harm hdisarm, hm, State.load_smp]
    | started _ hs ht hout hr =>
      rw [State.load_smp] at hs
      rw [timerAfter_of_not_reset (by simp [hr]), hout, hs, ht]
      rfl
    | stopped _ hs ht hout hr =>
      rw [State.load_smp] at hs
      rw [timerAfter_of_not_reset (by simp [hr]), hout, hs, ht]
      rfl
    | reset _ ht hr =>
      rw [timerAfter_of_reset hr, ht]
      rfl

theorem step_mode_ne_error {s t : State} (h : step s = .next t) (hs : s.smp.mode ≠ .error) : t.smp.mode ≠ .error := by
  rcases step_modeMove h with ⟨-, hm, -, -⟩ | ⟨i, e, rest, -, -, hmove⟩
  · rwa [hm]
  · cases hmove with
    | kept hm => rwa [hm, State.load_smp]
    | started _ _ ht | stopped _ _ ht | reset _ ht => simp [ht]

theorem step_leaves_error {s t : State} (h : step s = .next t) (hs : s.smp.mode = .error) :
    t.smp.mode = .error ∨ s.current = some (.reset .sampler) := by
  rcases step_modeMove h with ⟨-, hm, -, -⟩ | ⟨i, e, rest, hi, -, hmove⟩
  · exact .inl (hm.trans hs)
  · cases hmove with
    | kept hm => exact .inl (hm.trans hs)
    | started _ hm => cases hs.symm.trans hm
    | stopped _ hm => cases hs.symm.trans hm
    | reset hi' => exact .inr (hi' ▸ hi)

/-! ### The sample counter -/

theorem samplesIn_of_not_sampled {s t : State} (h : ∀ raw x, t.result ≠ some (.sampled raw x)) : samplesIn (s, t) = 0 := by
  unfold samplesIn
  split
  case h_1 raw x hr => exact absurd hr (h raw x)
  case h_2 => rfl

theorem samplesIn_of_sampled {s t : State} {raw : Nat} {x : TxResult} (h : t.result = some (.sampled raw x)) :
    samplesIn (s, t) = 1 := by
  simp [samplesIn, h]

/-- An instruction counts the sample it produced, and only that (R29, D17); `p` is any state before it. -/
theorem exec_sampleCounter {i : Instr} {s t : State} (p : State) (h : exec i s = .next t)
    (hreset : t.result ≠ some (.resetDone .sampler)) :
    t.smp.sampleCounter = s.smp.sampleCounter + BitVec.ofNat 32 (samplesIn (p, t)) := by
  cases effect_of_exec h with
  | sampled raw _ _ => rw [samplesIn_of_sampled (raw := raw) (x := s.inputs.tx) (by simp)]; simp
  | resetSampler => exact absurd rfl hreset
  | silent n q r hq hr => rw [samplesIn_of_not_sampled (by simpa using Result.ne_sampled_of_not_tells hr)]; simp
  | replied q a r hi hr _ => rw [samplesIn_of_not_sampled (by simpa using Result.ne_sampled_of_not_tells hr)]; simp
  | _ => rw [samplesIn_of_not_sampled (by simp)]; simp

theorem step_sampleCounter {s t : State} (h : step s = .next t) (hreset : resets .sampler (s, t) = false) :
    t.smp.sampleCounter = s.smp.sampleCounter + BitVec.ofNat 32 (samplesIn (s, t)) := by
  obtain ⟨-, hidle | ⟨i, e, rest, -, -, -, -, hx⟩⟩ := step_idle_or_exec h
  · have hnone : samplesIn (s, t) = 0 :=
      samplesIn_of_not_sampled fun raw x => by rcases hidle.result with hr | hr <;> simp [hr]
    rw [hidle.smp, hnone]
    simp
  · have hcount := exec_sampleCounter s hx (by simpa [resets] using hreset)
    rwa [State.load_smp] at hcount

/-! ### Transmissions -/

theorem cmdId_ne_idAdcData {c : Config} (h : c.IdsDistinct) (x : Command) : c.cmdId x ≠ c.idAdcData := by
  obtain ⟨-, hstart, -, -, hstop, -⟩ := ids_distinct c h
  cases x
  · exact hstart
  · exact hstop

theorem ackId_ne_idAdcData {c : Config} (h : c.IdsDistinct) (a : Ack) : c.ackId a ≠ c.idAdcData := by
  obtain ⟨-, -, -, -, -, -, -, hstart, hstop, -⟩ := ids_distinct c h
  cases a
  · exact hstart.symm
  · exact hstop.symm
  · exact hstop.symm

/-- What an instruction transmits: an acknowledge at the sampler's handlers, data at a tick in Sampling, a command for a press. -/
theorem exec_tx {i : Instr} {s t : State} {f : Frame} (h : exec i s = .next t) (hf : .tx f ∈ t.outputs) :
    (∃ a, Handles i .sampler ∧ f = encAck s.cfg a)
    ∨ (i = .smpTick ∧ s.smp.mode = .sampling ∧ t.smp.mode = .sampling)
    ∨ (∃ b, i = .btnPoll b ∧ f = encCmd s.cfg (buttonCommand b) ∧ .press b ∈ t.outputs)
    ∨ (∃ b, i = .hubPress b ∧ f = encCmd s.cfg (buttonCommand b)) := by
  cases effect_of_exec h with
  | started q hi _ => exact .inl ⟨.startOk, hi, by simpa using hf⟩
  | stopped q hi _ => exact .inl ⟨.stopOk, hi, by simpa using hf⟩
  | replied q a r hi _ _ => exact .inl ⟨a, hi, by simpa using hf⟩
  | sampled raw hi hm => exact .inr (.inl ⟨hi, hm, hm⟩)
  | pollPressed b x hi _ => exact .inr (.inr (.inl ⟨b, hi, by simpa using hf, by simp⟩))
  | pressed b hi => exact .inr (.inr (.inr ⟨b, hi, by simpa using hf⟩))
  | _ => simp at hf

theorem filter_isTx_texts (texts : List (List Byte)) : (texts.map Output.text).filter isTx = [] := by
  simp [List.filter_eq_nil_iff, isTx]

end Machine

open Machine

/-- Settles O29: the fold over the run, step by step. -/
theorem timerArmedExactlyWhileSampling : Obligations.TimerArmedExactlyWhileSampling := fun k s =>
  foldl_trace (fun s => some (s.smp.mode == .sampling)) timerAfter (fun _ => True) (fun _ _ h _ => step_timer h) k s
    fun _ _ => trivial

/-- Settles O33: by induction over the run, each step counting its own sample. -/
theorem sampleCounterCountsSamples : Obligations.SampleCounterCountsSamples := by
  refine run_induction (P := fun s steps u => (∀ p ∈ steps, resets .sampler p = false) →
    u.smp.sampleCounter = s.smp.sampleCounter + BitVec.ofNat 32 (steps.map samplesIn).sum)
    (fun s _ => by simp) (fun s t steps u h ih hresets => ?_)
  obtain ⟨hfirst, hrest⟩ := List.forall_mem_cons.1 hresets
  rw [ih hrest, step_sampleCounter h hfirst, List.map_cons, List.sum_cons, BitVec.ofNat_add, BitVec.add_assoc]

/-- Settles O30: the other transmissions stand on acknowledge and command identifiers. -/
theorem dataFramesOnlyWhileSampling : Obligations.DataFramesOnlyWhileSampling := by
  intro i s t f hwf h hf hid
  rcases exec_tx h hf with ⟨a, -, rfl⟩ | htick | ⟨b, -, rfl, -⟩ | ⟨b, -, rfl⟩
  · exact absurd hid (ackId_ne_idAdcData hwf.1 a)
  · exact htick
  · exact absurd hid (cmdId_ne_idAdcData hwf.1 _)
  · exact absurd hid (cmdId_ne_idAdcData hwf.1 _)

/-- Settles O31: no effect has two transmissions among its outputs. -/
theorem atMostOneTransmission : Obligations.AtMostOneTransmission := by
  intro i s t h
  cases effect_of_exec h with
  | recorded q v texts => simp [filter_isTx_texts]
  | _ => simp [List.filter_cons, isTx]

/-- Settles O32: no move of the state leads to Error, and from Error only the reset leads away. -/
theorem errorIsNeverEnteredAndOnlyResetLeavesIt : Obligations.ErrorIsNeverEnteredAndOnlyResetLeavesIt :=
  ⟨fun _ _ => step_mode_ne_error, fun _ _ => step_leaves_error, fun _ => rfl⟩

namespace Machine

/-! ### The drains -/

/-- The consumer of a node's queue (R182, R232). -/
def consumer : Node → Frame → State → State
  | .sampler => samplerConsume
  | .hub => hubConsume

theorem exec_drain (n : Node) (s : State) : exec (drain n) s = .next (drainWith n (consumer n) s.begin) := by
  cases n <;> rfl

theorem State.begin_setQueue (s : State) (n : Node) (q : Queue) : s.begin.setQueue n q = (s.setQueue n q).begin := by
  cases n <;> rfl

theorem exec_drain_of_none {n : Node} {s : State} (h : (s.queue n).deq = none) :
    exec (drain n) s = .next { s with outputs := [], result := some .empty } := by
  simp only [exec_drain, drainWith, State.queue_begin, h, State.begin_ret_eq]

/-- A pass takes the oldest frame off and gives it to the node's consumer. -/
theorem exec_drain_of_some {n : Node} {s : State} {f : Frame} {q : Queue} (h : (s.queue n).deq = some (f, q)) :
    exec (drain n) s = .next (consumer n f (s.setQueue n q).begin) := by
  simp only [exec_drain, drainWith, State.queue_begin, h, State.begin_setQueue]

section
variable {f : Frame} {s : State}

theorem samplerConsume_of_command {x : Command} (h : decCmd s.cfg f = .ok x.decoded) :
    samplerConsume f s = match x with | .start => startCommand s | .stop => stopCommand s := by
  cases x <;> simp only [Command.decoded] at h <;> simp only [samplerConsume, h]

theorem samplerConsume_of_unrecognised {id : CanId} {tag : Byte} (h : decCmd s.cfg f = .ok (.unrecognised id tag)) :
    samplerConsume f s = unknownCommand s := by
  simp only [samplerConsume, h]

theorem samplerConsume_of_error {e : BlockError} (h : decCmd s.cfg f = .error e) : samplerConsume f s = discardFrame s := by
  simp only [samplerConsume, h]

theorem id_of_decAdc {c : Config} {v : AdcValue} (h : decAdc c f = .ok v) : f.id = c.idAdcData := by
  by_contra hne
  rw [decAdc_of_id c f hne] at h
  cases h

theorem hubConsume_of_data {v : AdcValue} (h : decAdc s.cfg f = .ok v) : hubConsume f s = recordData v s := by
  simp only [hubConsume, if_pos (id_of_decAdc h), h]

theorem hubConsume_of_ack {a : Ack} (hids : s.cfg.IdsDistinct) (htags : s.cfg.AckTagsDistinct) (h : decAck s.cfg f = .ok a) :
    hubConsume f s = reportAck a s := by
  have hid := ((decAck_eq_ok_iff s.cfg hids htags f a).1 h).1
  have hne : f.id ≠ s.cfg.idAdcData := hid ▸ ackId_ne_idAdcData hids a
  have hack : f.id = s.cfg.idAckStart ∨ f.id = s.cfg.idAckStop := by
    cases a
    · exact .inl hid
    · exact .inr hid
    · exact .inr hid
  simp only [hubConsume, if_neg hne, if_pos hack, h]

theorem hubConsume_of_neither {e e' : BlockError} (hadc : decAdc s.cfg f = .error e) (hack : decAck s.cfg f = .error e') :
    hubConsume f s = discardFrame s := by
  rcases hubConsume_cases f s with ⟨hdrop, -⟩ | ⟨v, -, hv, -⟩ | ⟨a, -, -, ha, -⟩
  · exact hdrop
  · cases hadc.symm.trans hv
  · cases hack.symm.trans ha

end

theorem discardFrame_begin (s : State) : discardFrame s.begin = { s with outputs := [], result := some .discarded } := rfl

end Machine

/-- Settles O27: the drain's dispatch on the verdict; in a run the handlers stand inside it alone. -/
theorem samplerDrainTable : Obligations.SamplerDrainTable := by
  intro s
  refine ⟨fun hempty => exec_drain_of_none (n := .sampler) ((Queue.deq_eq_none _).2 hempty), fun f q hq => ?dispatch,
    fun t hrun h hne => ?who⟩
  case dispatch =>
    have hdrain : exec .smpDrain s = .next (samplerConsume f (s.setQueue .sampler q).begin) :=
      exec_drain_of_some (n := .sampler) hq
    refine ⟨fun hd => ?_, fun hd => ⟨_, hdrain, ?_⟩, fun hd => ⟨_, hdrain, ?_⟩, fun id tag hd => ⟨_, hdrain, ?_⟩⟩
    · rw [hdrain, samplerConsume_of_error (s := (s.setQueue .sampler q).begin) hd, discardFrame_begin]
      rfl
    · rw [samplerConsume_of_command (s := (s.setQueue .sampler q).begin) (x := .start) hd]
      exact exec_smpStart _
    · rw [samplerConsume_of_command (s := (s.setQueue .sampler q).begin) (x := .stop) hd]
      exact exec_smpStop _
    · rw [samplerConsume_of_unrecognised (s := (s.setQueue .sampler q).begin) hd]
      exact exec_smpUnknown _
  case who =>
    rcases step_modeMove h with ⟨-, hm, -, -⟩ | ⟨i, e, rest, hi, hl, hmove⟩
    · exact absurd hm hne
    · simpa [hi] using hmove.drain_or_reset (hl hrun) hne

/-- Settles O46: the hub's drain by what the two decoders accept. -/
theorem hubDrainTable : Obligations.HubDrainTable := by
  intro s
  refine ⟨fun hempty => exec_drain_of_none (n := .hub) ((Queue.deq_eq_none _).2 hempty), fun f q hq => ?_⟩
  have hdrain : exec .hubDrain s = .next (hubConsume f (s.setQueue .hub q).begin) := exec_drain_of_some (n := .hub) hq
  refine ⟨fun v hv => ⟨_, hdrain, ?data⟩, fun hwf a ha => ⟨_, hdrain, ?ack⟩, fun hadc hack => ?dropped⟩
  case data =>
    rw [hubConsume_of_data (s := (s.setQueue .hub q).begin) hv]
    exact exec_hubData v _
  case ack =>
    obtain ⟨hids, htags, -⟩ := hwf
    rw [hubConsume_of_ack (s := (s.setQueue .hub q).begin) hids htags ha]
    exact exec_hubAck a _
  case dropped =>
    rw [hdrain, hubConsume_of_neither (s := (s.setQueue .hub q).begin) hadc hack, discardFrame_begin]
    rfl

namespace Machine

/-! ### The path of a wire message -/

section
variable {s : State} {f : Frame} {i : Instr}

/-- The sampler does to a frame what its message does, if the message is a command, and drops every other frame (D34). -/
theorem samplerConsume_of_instrOfFrame (hwf : s.cfg.WellFormed) :
    (∃ i, s.cfg.instrOfFrame f = .ok i ∧ owner i = some .sampler ∧ exec i s = .next (samplerConsume f s.begin))
    ∨ ((∀ i, s.cfg.instrOfFrame f = .ok i → owner i = some .hub) ∧ samplerConsume f s.begin = discardFrame s.begin) := by
  rcases instrOfFrame_cases hwf f with ⟨x, -, -, hd, hi⟩ | ⟨x, -, -, hd, hi⟩ | ⟨v, hd, -, hi⟩ | ⟨a, hd, -, hi⟩ | ⟨hd, -, -, hi⟩
  case inl =>
    refine .inl ⟨_, hi, ?_⟩
    rw [samplerConsume_of_command (s := s.begin) hd]
    cases x <;> exact ⟨rfl, rfl⟩
  case inr.inl => exact .inl ⟨_, hi, rfl, by rw [samplerConsume_of_unrecognised (s := s.begin) hd]; rfl⟩
  case inr.inr.inl =>
    refine .inr ⟨fun i h => ?_, samplerConsume_of_error hd⟩
    obtain rfl := Except.ok.inj (hi.symm.trans h)
    rfl
  case inr.inr.inr.inl =>
    refine .inr ⟨fun i h => ?_, samplerConsume_of_error hd⟩
    obtain rfl := Except.ok.inj (hi.symm.trans h)
    cases a <;> rfl
  case inr.inr.inr.inr =>
    refine .inr ⟨fun i h => ?_, samplerConsume_of_error hd⟩
    cases hi.symm.trans h

/-- The hub does to a frame what its message does, if it is data or an acknowledge, and drops every other frame (D34). -/
theorem hubConsume_of_instrOfFrame (hwf : s.cfg.WellFormed) :
    (∃ i, s.cfg.instrOfFrame f = .ok i ∧ owner i = some .hub ∧ exec i s = .next (hubConsume f s.begin))
    ∨ ((∀ i, s.cfg.instrOfFrame f = .ok i → owner i = some .sampler) ∧ hubConsume f s.begin = discardFrame s.begin) := by
  rcases instrOfFrame_cases hwf f with ⟨x, hid, -, -, hi⟩ | ⟨x, hid, -, -, hi⟩ | ⟨v, -, hd, hi⟩ | ⟨a, -, hd, hi⟩
    | ⟨-, hadc, hack, hi⟩
  case inl =>
    obtain ⟨hack, hadc⟩ := refused_of_cmdId hwf.1 hid
    refine .inr ⟨fun i h => ?_, hubConsume_of_neither hadc hack⟩
    obtain rfl := Except.ok.inj (hi.symm.trans h)
    cases x <;> rfl
  case inr.inl =>
    obtain ⟨hack, hadc⟩ := refused_of_cmdId hwf.1 hid
    refine .inr ⟨fun i h => ?_, hubConsume_of_neither hadc hack⟩
    obtain rfl := Except.ok.inj (hi.symm.trans h)
    rfl
  case inr.inr.inl => exact .inl ⟨_, hi, rfl, by rw [hubConsume_of_data (s := s.begin) hd]; rfl⟩
  case inr.inr.inr.inl =>
    obtain ⟨hids, htags, -⟩ := hwf
    refine .inl ⟨_, hi, ?_⟩
    rw [hubConsume_of_ack (s := s.begin) hids htags hd]
    cases a <;> exact ⟨rfl, rfl⟩
  case inr.inr.inr.inr =>
    refine .inr ⟨fun i h => ?_, hubConsume_of_neither hadc hack⟩
    cases hi.symm.trans h

/-- A node's consumer runs the message of a frame if the message belongs to the node, and drops the frame if not. -/
theorem consumer_of_instrOfFrame (n : Node) (hwf : s.cfg.WellFormed) :
    (∃ i, s.cfg.instrOfFrame f = .ok i ∧ owner i = some n ∧ exec i s = .next (consumer n f s.begin))
    ∨ ((∀ i, s.cfg.instrOfFrame f = .ok i → owner i ≠ some n) ∧ consumer n f s.begin = discardFrame s.begin) := by
  cases n
  case sampler =>
    refine (samplerConsume_of_instrOfFrame hwf).imp id fun ⟨howner, hdrop⟩ => ⟨fun i hi => ?_, hdrop⟩
    simp [howner i hi]
  case hub =>
    refine (hubConsume_of_instrOfFrame hwf).imp id fun ⟨howner, hdrop⟩ => ⟨fun i hi => ?_, hdrop⟩
    simp [howner i hi]

end

end Machine

/-- Settles O28: the drain is the consumer on the frame taken, and the consumer is the message's own operation or a drop. -/
theorem drainRunsTheWireInstruction : Obligations.DrainRunsTheWireInstruction := by
  intro n i s f q hwf hi hq
  obtain rfl : i = drain n := by rcases hi with ⟨rfl, rfl⟩ | ⟨rfl, rfl⟩ <;> rfl
  have hcfg : (s.setQueue n q).cfg = s.cfg := s.setQueue_cfg n q
  have hdrop : discardFrame (s.setQueue n q).begin = { (s.setQueue n q) with outputs := [], result := some .discarded } := rfl
  rw [exec_drain_of_some hq]
  rcases consumer_of_instrOfFrame (s := s.setQueue n q) (f := f) n (hcfg.symm ▸ hwf) with ⟨j, hj, hown, hexec⟩ | ⟨hown, hc⟩
  · rw [hcfg] at hj
    refine ⟨fun k hk _ => ?_, fun k hk hne => ?_, fun r hr => ?_⟩
    · obtain rfl := Except.ok.inj (hj.symm.trans hk)
      exact hexec.symm
    · obtain rfl := Except.ok.inj (hj.symm.trans hk)
      exact absurd hown hne
    · cases hj.symm.trans hr
  · rw [hcfg] at hown
    exact ⟨fun k hk h => absurd h (hown k hk), fun k _ _ => by rw [hc, hdrop], fun r _ => by rw [hc, hdrop]⟩

end Sys2Proof
end

section
/-! PROOFS on the sampler's Stops over a run, received and drained in any order: O34. -/

namespace Sys2Proof

namespace Machine

/-! ### A run in which only Stops come -/

/-- The sampler is not in Error, and every frame queued or to come is a Stop, received or drained by the moves ahead. -/
structure StopsOnly (s : State) : Prop where
  wf : s.cfg.WellFormed
  inRun : s.InRun
  mode_ne_error : s.smp.mode ≠ .error
  ring : s.smp.q.Ring
  queued : ∀ f ∈ s.smp.q.contents, decCmd s.cfg f = .ok .stop
  coming : ∀ e ∈ s.agenda, decode s.cfg e.word = .ok .smpDrain
    ∨ ∃ f, decode s.cfg e.word = .ok (.smpRx f) ∧ decCmd s.cfg f = .ok .stop

/-- Idle is left by no step, and a pass that takes a frame answers StopOk and ends in Idle (R193 (e)). -/
def StopAnswered (c : Config) (p : State × State) : Prop :=
  (p.1.smp.mode = .idle → p.2.smp.mode = .idle)
  ∧ (p.1.current = some .smpDrain → 0 < p.1.smp.q.count.val →
    p.2.smp.mode = .idle ∧ (∃ r, p.2.result = some (.stopped r))
    ∧ p.2.outputs = (if p.1.smp.mode = .sampling then [.disarm, .tx (encAck c .stopOk)] else [.tx (encAck c .stopOk)]))

section
variable {s t : State}

theorem StopsOnly.exists_step (h : StopsOnly s) : ∃ t, step s = .next t := by
  obtain ⟨-, -, -, -, -, hgoesOn⟩ := stepRefusesOnlyOutsideTheRules s
  refine hgoesOn h.wf h.inRun fun e he => ?_
  rcases h.coming e he with hd | ⟨f, hd, -⟩
  · exact ⟨_, hd, rfl⟩
  · exact ⟨_, hd, rfl⟩

/-- A step of such a run waits, drains, or receives a Stop. -/
theorem StopsOnly.step_cases (h : StopsOnly s) (hstep : step s = .next t) :
    IdleStep s t
    ∨ ∃ i e rest, s.current = some i ∧ s.agenda = e :: rest ∧ exec i (s.load e rest) = .next t
        ∧ (i = .smpDrain ∨ ∃ f, i = .smpRx f ∧ decCmd s.cfg f = .ok .stop) := by
  obtain ⟨-, hidle | ⟨i, e, rest, hi, htakes, hd, -, hx⟩⟩ := step_idle_or_exec hstep
  · exact .inl hidle
  · cases htakes with
    | bench hb => cases h.inRun.symm.trans hb
    | move _ _ ha =>
      refine .inr ⟨i, e, rest, hi, ha, hx, ?_⟩
      rcases h.coming e (by simp [ha]) with hd' | ⟨f, hd', hf⟩
      · exact .inl (Except.ok.inj (hd.symm.trans hd'))
      · exact .inr ⟨f, Except.ok.inj (hd.symm.trans hd'), hf⟩

/-- A reception of a Stop and a pass of the drain leave only Stops in the queue. -/
theorem QueueMove.stops {i : Instr} (h : QueueMove .sampler i s t)
    (hi : i = .smpDrain ∨ ∃ f, i = .smpRx f ∧ decCmd s.cfg f = .ok .stop) (hring : s.smp.q.Ring)
    (hs : ∀ f ∈ s.smp.q.contents, decCmd s.cfg f = .ok .stop) : ∀ f ∈ t.smp.q.contents, decCmd s.cfg f = .ok .stop := by
  cases h with
  | kept hq => rwa [show t.smp.q = s.smp.q from hq]
  | stored g hg hq =>
    have hstop : decCmd s.cfg g = .ok .stop := by
      rcases hi with rfl | ⟨f, rfl, hf⟩
      · simp [reception] at hg
      · have hfg : f = g := by simpa [reception] using hg
        rwa [← hfg]
    rw [show t.smp.q.contents = _ from Queue.contents_enq hring hq]
    exact List.forall_mem_append.2 ⟨hs, by simpa using hstop⟩
  | taken g _ hq =>
    rw [show s.smp.q.contents = _ from Queue.contents_deq hq] at hs
    exact fun f hf => hs f (List.mem_cons_of_mem g hf)
  | reset slots _ hq =>
    rw [show t.smp.q = _ from hq, Queue.contents_ofSlots]
    simp

theorem StopsOnly.of_step (h : StopsOnly s) (hstep : step s = .next t) : StopsOnly t := by
  obtain ⟨hcfg, hbench⟩ := step_cfg_bench hstep
  refine ⟨hcfg ▸ h.wf, hbench, step_mode_ne_error hstep h.mode_ne_error, step_ring .sampler hstep h.ring, ?queued, ?coming⟩ <;>
    rw [hcfg] <;> rcases h.step_cases hstep with hidle | ⟨i, e, rest, -, ha, hx, hi⟩
  case queued.inl => rw [hidle.smp]; exact h.queued
  case queued.inr => exact (queueMove_of_exec .sampler hx).stops hi h.ring h.queued
  case coming.inl => rw [hidle.agenda]; exact h.coming
  case coming.inr =>
    obtain ⟨-, -, hagenda, -⟩ := exec_frame hx
    intro e' he'
    rw [hagenda, State.load_agenda] at he'
    exact h.coming e' (by simp [ha, he'])

/-- A pass over a queued Stop, outside Error: the state becomes Idle and StopOk is sent (R184). -/
theorem exec_smpDrain_of_stop {f : Frame} {q : Queue} (hq : s.smp.q.deq = some (f, q)) (hf : decCmd s.cfg f = .ok .stop)
    (hmode : s.smp.mode ≠ .error) (h : exec .smpDrain s = .next t) :
    t.smp.mode = .idle ∧ (∃ r, t.result = some (.stopped r))
      ∧ t.outputs = (if s.smp.mode = .sampling then [.disarm, .tx (encAck s.cfg .stopOk)] else [.tx (encAck s.cfg .stopOk)]) := by
  have hdrain : exec .smpDrain s = .next (samplerConsume f (s.setQueue .sampler q).begin) :=
    exec_drain_of_some (n := .sampler) hq
  obtain rfl := Host.Outcome.next.inj (hdrain.symm.trans h)
  rw [samplerConsume_of_command (s := (s.setQueue .sampler q).begin) (x := .stop) hf]
  cases hm : s.smp.mode with
  | idle =>
    simp only [stopCommand_of_idle (s := (s.setQueue .sampler q).begin) hm]
    exact ⟨hm, ⟨_, rfl⟩, rfl⟩
  | sampling =>
    simp only [stopCommand_of_sampling (s := (s.setQueue .sampler q).begin) hm]
    exact ⟨rfl, ⟨_, rfl⟩, rfl⟩
  | error => exact absurd hm hmode

theorem StopsOnly.answered (h : StopsOnly s) (hstep : step s = .next t) : StopAnswered s.cfg (s, t) := by
  rcases h.step_cases hstep with hidle | ⟨i, e, rest, hi, -, hx, rfl | ⟨f, rfl, -⟩⟩
  · refine ⟨fun hm => (congrArg Sampler.mode hidle.smp).trans hm, fun hc => ?_⟩
    cases hidle.current.symm.trans hc
  · cases hq : s.smp.q.deq with
    | none =>
      have hnone : exec .smpDrain (s.load e rest) = _ := exec_drain_of_none (n := .sampler) hq
      obtain rfl := Host.Outcome.next.inj (hnone.symm.trans hx)
      refine ⟨id, fun _ hpos => ?_⟩
      rw [(Queue.deq_eq_none _).1 hq] at hpos
      cases hpos
    | some p =>
      have hf := h.queued p.1 (by rw [Queue.contents_deq hq]; exact List.mem_cons_self)
      have hanswer := exec_smpDrain_of_stop (s := s.load e rest) hq hf h.mode_ne_error hx
      exact ⟨fun _ => hanswer.1, fun _ _ => hanswer⟩
  · have hmode : t.smp.mode = s.smp.mode := by
      obtain rfl := Host.Outcome.next.inj ((exec_reception .sampler f (s.load e rest)).symm.trans hx)
      rcases enqueueAt_cases .sampler f (s.load e rest).begin with ⟨-, e⟩ | ⟨q, -, e⟩ <;> rw [e] <;> simp
    refine ⟨fun hm => hmode.trans hm, fun hc => ?_⟩
    cases hi.symm.trans hc

/-- Such a run does not stop, and every step of it answers its Stops. -/
theorem StopsOnly.run (h : StopsOnly s) (k : Nat) : (trace k s).length = k ∧ ∀ p ∈ trace k s, StopAnswered s.cfg p := by
  induction k generalizing s with
  | zero => exact ⟨rfl, by simp [trace]⟩
  | succ k ih =>
    obtain ⟨t, hstep⟩ := h.exists_step
    obtain ⟨hlength, hanswered⟩ := ih (h.of_step hstep)
    rw [(step_cfg_bench hstep).1] at hanswered
    rw [trace_succ_of_step hstep]
    exact ⟨congrArg (· + 1) hlength, List.forall_mem_cons.2 ⟨h.answered hstep, hanswered⟩⟩

end

end Machine

open Machine

/-- Settles O34: a run in which only Stops come is kept so by every step, and each step answers. -/
theorem repeatedStopsAreIdempotent : Obligations.RepeatedStopsAreIdempotent :=
  fun k _ hwf hrun hmode hring hqueued hcoming => StopsOnly.run ⟨hwf, hrun, hmode, hring, hqueued, hcoming⟩ k

end Sys2Proof
end

section
/-! PROOFS on the buttons: one poll and runs of polls in a row, the events over a run, who emits a press; O38 to O42, O48. -/

namespace Sys2Proof

namespace Machine

/-! ### One poll -/

/-- The outputs of a poll by the event it confirms (R211 to R213). -/
def eventOutputs (c : Config) (b : Button) : Option ButtonEvent → List Output
  | none => []
  | some .press => [.press b, .tx (encCmd c (buttonCommand b))]
  | some .release => [.release b]

/-- The result of a poll by the event it confirms. -/
def eventResult (b : Button) (tx : TxResult) : Option ButtonEvent → Result
  | none => .noEvent
  | some .press => .pressed b tx
  | some .release => .released b

/-- A poll writes the filter's record and shows the filter's event. -/
theorem exec_btnPoll_eq (b : Button) (s : State) :
    exec (.btnPoll b) s = .next { s with
      hub := s.hub.setBtn b ((s.hub.btn b).poll s.cfg.debounceTicks (s.rawPressed b)).1
      outputs := eventOutputs s.cfg b ((s.hub.btn b).poll s.cfg.debounceTicks (s.rawPressed b)).2
      result := some (eventResult b s.inputs.tx ((s.hub.btn b).poll s.cfg.debounceTicks (s.rawPressed b)).2) } := by
  rcases h : (s.hub.btn b).poll s.cfg.debounceTicks (s.rawPressed b) with ⟨y, _ | _ | _⟩
  · exact exec_btnPoll_of_none h
  · exact exec_btnPoll_of_press h
  · exact exec_btnPoll_of_release h

/-- A counter that is not zero does not wrap when it counts down (R217). -/
theorem toNat_countDown {k : BitVec 32} (h : k ≠ 0) : (k - 1).toNat = k.toNat - 1 := by
  have hpos : k.toNat ≠ 0 := fun hz => h (BitVec.eq_of_toNat_eq hz)
  bv_omega

/-- The filter sets its counter to the window, counts it down, or leaves it (R217). -/
theorem ButtonState.poll_counter_le (window : BitVec 32) (raw : Bool) (x : ButtonState)
    (h : x.debounceCounter.toNat ≤ window.toNat) : (x.poll window raw).1.debounceCounter.toNat ≤ window.toNat := by
  rcases x.poll_cases window raw with ⟨-, hp⟩ | ⟨-, -, hp⟩ | ⟨-, hne, -, hp⟩ | ⟨-, -, -, -, hp⟩ | ⟨-, -, -, -, hp⟩ <;> rw [hp]
  · exact h
  · rw [toNat_countDown hne]
    omega
  · exact Nat.zero_le _
  · exact Nat.zero_le _

/-- Under a window of 0 the filter never starts to count (R217). -/
theorem ButtonState.poll_window_zero (raw : Bool) (x : ButtonState) (h : x.debounceCounter = 0) :
    (x.poll 0 raw).1.debounceCounter = 0 ∧ (x.poll 0 raw).2 = none := by
  by_cases hraw : raw = x.lastRawSample
  · rw [ButtonState.poll_of_atRest hraw h]
    exact ⟨h, rfl⟩
  · rw [ButtonState.poll_of_changed hraw]
    exact ⟨rfl, rfl⟩

end Machine

open Machine

/-- Settles O38: the filter's counter; the other button's record is not written. -/
theorem debounceCounterStaysInWindow : Obligations.DebounceCounterStaysInWindow := by
  intro a b s t h
  obtain rfl := Host.Outcome.next.inj ((exec_btnPoll_eq a s).symm.trans h)
  refine ⟨fun hle => ?inWindow, fun hwindow hzero => ?never⟩
  case inWindow =>
    by_cases hab : b = a
    · subst hab
      simp only [Hub.btn_setBtn_same]
      exact ButtonState.poll_counter_le _ _ _ hle
    · simpa only [Hub.btn_setBtn_other _ _ _ _ hab] using hle
  case never =>
    obtain ⟨hcounter, hevent⟩ := ButtonState.poll_window_zero (s.rawPressed a) _ hzero
    simp only [hwindow, hevent, Hub.btn_setBtn_same]
    exact ⟨hcounter, rfl, rfl⟩

namespace Machine

/-! ### Polls in a row -/

/-- The polls of `b` at the inputs `ins` are the next moves of a run under `c`, and `x` is the button's record. -/
structure PollsAhead (c : Config) (b : Button) (x : ButtonState) (ins : List Inputs) (rest : List Event) (s : State) : Prop where
  wf : c.WellFormed
  cfg : s.cfg = c
  inRun : s.InRun
  btn : s.hub.btn b = x
  agenda : s.agenda = ins.map (fun y => ⟨encode c (.btnPoll b), y⟩) ++ rest

/-- A step that shows no event and leaves the confirmed state at `cur`. -/
def QuietPoll (b : Button) (cur : Bool) (p : State × State) : Prop :=
  p.2.outputs = [] ∧ p.2.result = some .noEvent ∧ (p.2.hub.btn b).currentPressed = cur

/-- A run of `k` steps, all of them quiet. -/
structure QuietRun (b : Button) (cur : Bool) (k : Nat) (s : State) : Prop where
  length : (trace k s).length = k
  quiet : ∀ p ∈ trace k s, QuietPoll b cur p

section
variable {c : Config} {b : Button} {x : ButtonState} {y : Inputs} {ins : List Inputs} {rest : List Event} {s : State}

/-- The first of the polls runs the filter on the level it reads. -/
theorem PollsAhead.step (h : PollsAhead c b x (y :: ins) rest s) :
    ∃ t, step s = .next t ∧ PollsAhead c b (x.poll c.debounceTicks (y.level == pressedLevel c b)).1 ins rest t
      ∧ t.outputs = eventOutputs c b (x.poll c.debounceTicks (y.level == pressedLevel c b)).2
      ∧ t.result = some (eventResult b y.tx (x.poll c.debounceTicks (y.level == pressedLevel c b)).2) := by
  obtain ⟨hwf, rfl, hrun, rfl, ha⟩ := h
  have hd : decode s.cfg (encode s.cfg (.btnPoll b)) = .ok (.btnPoll b) := encodeThenDecode s.cfg _ hwf rfl
  refine ⟨_, (step_of_move hwf hrun ha hd rfl).trans (exec_btnPoll_eq b _), ⟨hwf, rfl, rfl, ?_, rfl⟩, rfl, rfl⟩
  exact Hub.btn_setBtn_same _ _ _

theorem QuietRun.zero (b : Button) (cur : Bool) (s : State) : QuietRun b cur 0 s := ⟨rfl, by simp [trace]⟩

theorem QuietRun.succ {cur : Bool} {k : Nat} {t : State} (hstep : Machine.step s = .next t) (hquiet : QuietPoll b cur (s, t))
    (h : QuietRun b cur k t) : QuietRun b cur (k + 1) s := by
  constructor <;> rw [trace_succ_of_step hstep]
  · exact congrArg (· + 1) h.length
  · exact List.forall_mem_cons.2 ⟨hquiet, h.quiet⟩

/-- A poll whose filter confirms nothing is a quiet step. -/
theorem PollsAhead.step_of_none {x' : ButtonState} (h : PollsAhead c b x (y :: ins) rest s)
    (hp : x.poll c.debounceTicks (y.level == pressedLevel c b) = (x', none)) :
    ∃ t, Machine.step s = .next t ∧ PollsAhead c b x' ins rest t ∧ QuietPoll b x'.currentPressed (s, t) := by
  obtain ⟨t, hstep, hahead, hout, hres⟩ := h.step
  rw [hp] at hahead hout hres
  exact ⟨t, hstep, hahead, hout, hres, congrArg ButtonState.currentPressed hahead.btn⟩

/-- A level read as before counts down; before the last count, or at the confirmed level, without event (R210). -/
theorem ButtonState.poll_countdown (window : BitVec 32) {cur v : Bool} {k : Nat} (hk : k < 2 ^ 32) (hquiet : 1 < k ∨ cur = v) :
    (⟨cur, v, BitVec.ofNat 32 k⟩ : ButtonState).poll window v = (⟨cur, v, BitVec.ofNat 32 (k - 1)⟩, none) := by
  by_cases hzero : k = 0
  · subst hzero
    exact ButtonState.poll_of_atRest rfl rfl
  · have hne (j : Nat) (hj : j < 2 ^ 32) (hkj : k ≠ j) : BitVec.ofNat 32 k ≠ BitVec.ofNat 32 j := fun h => by
      have := congrArg BitVec.toNat h
      simp only [BitVec.toNat_ofNat] at this
      omega
    have hnezero : BitVec.ofNat 32 k ≠ 0 := hne 0 (by decide) hzero
    have hcount : BitVec.ofNat 32 k - 1 = BitVec.ofNat 32 (k - 1) := by
      apply BitVec.eq_of_toNat_eq
      rw [toNat_countDown hnezero, BitVec.toNat_ofNat, BitVec.toNat_ofNat]
      omega
    rw [← hcount]
    exact ButtonState.poll_of_unconfirmed rfl hnezero
      (hquiet.imp_left fun h => hne 1 (by decide) (by omega))

/-- Polls that read the level last read are quiet while the count lasts, or for ever at the confirmed level. -/
theorem PollsAhead.run_countdown {cur v : Bool} {k : Nat} (hk : k < 2 ^ 32) (hlevel : ∀ y ∈ ins, (y.level == pressedLevel c b) = v)
    (hquiet : ins.length < k ∨ cur = v) (h : PollsAhead c b ⟨cur, v, BitVec.ofNat 32 k⟩ ins rest s) :
    QuietRun b cur ins.length s
      ∧ PollsAhead c b ⟨cur, v, BitVec.ofNat 32 (k - ins.length)⟩ [] rest (final ins.length s) := by
  induction ins generalizing k s with
  | nil => exact ⟨.zero b cur s, h⟩
  | cons y ins ih =>
    obtain ⟨hy, hins⟩ := List.forall_mem_cons.1 hlevel
    rw [List.length_cons] at hquiet
    have hpoll := ButtonState.poll_countdown c.debounceTicks hk (hquiet.imp_left fun hlt => (by omega : 1 < k))
    rw [← hy] at hpoll h
    obtain ⟨t, hstep, hahead, hq⟩ := h.step_of_none hpoll
    rw [hy] at hahead
    obtain ⟨hrun, hend⟩ := ih (by omega) hins (hquiet.imp_left fun hlt => (by omega)) hahead
    have hcount : k - (ins.length + 1) = k - 1 - ins.length := by omega
    rw [List.length_cons, final_succ_of_step hstep, hcount]
    exact ⟨hrun.succ hstep hq, hend⟩

/-- Polls at a changed level: the first starts the window, the others count it down (R210, R218). -/
theorem PollsAhead.run_changed {cur v : Bool} {n : BitVec 32} (hlevel : ∀ y ∈ ins, (y.level == pressedLevel c b) = v)
    (hquiet : ins.length ≤ c.debounceTicks.toNat ∨ cur = v) (h : PollsAhead c b ⟨cur, !v, n⟩ ins rest s) :
    QuietRun b cur ins.length s
      ∧ (0 < ins.length →
          PollsAhead c b ⟨cur, v, BitVec.ofNat 32 (c.debounceTicks.toNat - (ins.length - 1))⟩ [] rest (final ins.length s)) := by
  cases ins with
  | nil => exact ⟨.zero b cur s, nofun⟩
  | cons y ins =>
    obtain ⟨hy, hins⟩ := List.forall_mem_cons.1 hlevel
    have hpoll : (⟨cur, !v, n⟩ : ButtonState).poll c.debounceTicks (y.level == pressedLevel c b)
        = (⟨cur, v, BitVec.ofNat 32 c.debounceTicks.toNat⟩, none) := by
      rw [hy, BitVec.ofNat_toNat, BitVec.setWidth_eq]
      exact ButtonState.poll_of_changed (by simp)
    obtain ⟨t, hstep, hahead, hq⟩ := h.step_of_none hpoll
    obtain ⟨hrun, hend⟩ := hahead.run_countdown c.debounceTicks.isLt hins hquiet
    rw [List.length_cons, final_succ_of_step hstep]
    exact ⟨hrun.succ hstep hq, fun _ => hend⟩

/-- The last count confirms the level exactly when it differs from the confirmed one (R210). -/
theorem ButtonState.poll_lastCount (window : BitVec 32) (cur v : Bool) :
    (⟨cur, v, 1⟩ : ButtonState).poll window v
      = (⟨v, v, 0⟩, if cur = v then none else if v then some .press else some .release) := by
  by_cases hcur : cur = v
  · subst hcur
    rw [if_pos rfl]
    exact ButtonState.poll_countdown window (k := 1) (by decide) (.inr rfl)
  · rw [if_neg hcur]
    cases v with
    | true => exact ButtonState.poll_of_confirmedPress rfl rfl (by simpa using hcur) rfl
    | false => exact ButtonState.poll_of_confirmedRelease rfl rfl (by simpa using hcur) rfl

/-- A run of `k` steps and one step more. -/
theorem trace_final_snoc {k : Nat} {t : State} (hlength : (trace k s).length = k) (hstep : Machine.step (final k s) = .next t) :
    trace (k + 1) s = trace k s ++ [(final k s, t)] ∧ final (k + 1) s = t := by
  induction k generalizing s with
  | zero => exact ⟨trace_succ_of_step hstep 0, final_succ_of_step hstep 0⟩
  | succ k ih =>
    rcases run_succ k s with ⟨u, hu, htrace, hfinal⟩ | ⟨-, htrace, -⟩
    · rw [htrace] at hlength
      rw [hfinal] at hstep ⊢
      obtain ⟨htrace', hfinal'⟩ := ih (Nat.succ.inj hlength) hstep
      rw [trace_succ_of_step hu, final_succ_of_step hu, htrace', hfinal', htrace]
      exact ⟨rfl, rfl⟩
    · rw [htrace] at hlength
      cases hlength

theorem eventOutputs_ite (c : Config) (b : Button) (cur v : Bool) :
    eventOutputs c b (if cur = v then none else if v then some .press else some .release)
      = if cur = v then [] else if v then [.press b, .tx (encCmd c (buttonCommand b))] else [.release b] := by
  cases cur <;> cases v <;> rfl

end

end Machine

/-- Settles O39: the first poll of the changed level starts the window, the others count it down, the last confirms. -/
theorem debounceCountingLaw : Obligations.DebounceCountingLaw := by
  intro b x v n ins rest s hwf hrun hbtn hlevel ha
  refine ⟨fun hle => ?fewer, fun hlen => ?all⟩
  case fewer =>
    have hahead : PollsAhead s.cfg b ⟨x, !v, n⟩ ins rest s := ⟨hwf, rfl, hrun, hbtn, ha⟩
    obtain ⟨hlength, hquiet⟩ := (hahead.run_changed hlevel (.inl hle)).1
    exact ⟨hlength, hquiet⟩
  case all =>
    obtain ⟨front, last, rfl⟩ : ∃ front last, ins = front ++ [last] :=
      (List.eq_nil_or_concat' ins).resolve_left (by rintro rfl; cases hlen)
    obtain ⟨hfront, hlast⟩ := List.forall_mem_append.1 hlevel
    rw [List.forall_mem_singleton] at hlast
    rw [List.length_append, List.length_singleton, Nat.add_right_cancel_iff] at hlen
    rw [List.map_append, List.append_assoc] at ha
    have hahead : PollsAhead s.cfg b ⟨x, !v, n⟩ front ([last].map (fun y => ⟨encode s.cfg (.btnPoll b), y⟩) ++ rest) s :=
      ⟨hwf, rfl, hrun, hbtn, ha⟩
    obtain ⟨hquietRun, hend⟩ := hahead.run_changed hfront (.inl hlen.le)
    have hpositive : 1 ≤ s.cfg.debounceTicks.toNat := by
      obtain ⟨-, -, -, hpositive, -⟩ := hwf
      exact hpositive
    have hcount : s.cfg.debounceTicks.toNat - (front.length - 1) = 1 := by omega
    obtain ⟨hwf', hcfg, hrun', hbtn', hagenda⟩ := hend (by omega)
    rw [hcount] at hbtn'
    have hlastAhead : PollsAhead s.cfg b ⟨x, v, 1⟩ [last] rest (final front.length s) := ⟨hwf', hcfg, hrun', hbtn', hagenda⟩
    obtain ⟨t, hstep, htAhead, hout, -⟩ := hlastAhead.step
    rw [hlast, ButtonState.poll_lastCount] at htAhead hout
    obtain ⟨htrace, hfinal⟩ := trace_final_snoc hquietRun.length hstep
    rw [List.length_append, List.length_singleton, htrace, hfinal, List.dropLast_concat]
    refine ⟨by simp [hquietRun.length], fun p hp => ?_, htAhead.btn, hout.trans (eventOutputs_ite s.cfg b x v)⟩
    obtain ⟨hpout, hpres, -⟩ := hquietRun.quiet p hp
    exact ⟨hpout, hpres⟩

/-- Settles O40: the glitch starts the window, and the polls back run it out at the confirmed level. -/
theorem debounceGlitchLaw : Obligations.DebounceGlitchLaw := by
  intro b x g ins rest s hwf hrun hbtn hg hlevel ha
  have hahead : PollsAhead s.cfg b ⟨x, x, 0⟩ (g :: ins) rest s := ⟨hwf, rfl, hrun, hbtn, ha⟩
  have hpoll : (⟨x, x, 0⟩ : ButtonState).poll s.cfg.debounceTicks (g.level == pressedLevel s.cfg b)
      = (⟨x, !x, s.cfg.debounceTicks⟩, none) := by
    rw [hg]
    exact ButtonState.poll_of_changed (by simp)
  obtain ⟨t, hstep, htAhead, hq⟩ := hahead.step_of_none hpoll
  obtain ⟨hrun, hend⟩ := htAhead.run_changed hlevel (.inr rfl)
  obtain ⟨hlength, hquiet⟩ := hrun.succ hstep hq
  refine ⟨hlength, hquiet, fun hlong => ?_⟩
  have hcount : s.cfg.debounceTicks.toNat - (ins.length - 1) = 0 := by omega
  have hrest := (hend (by omega)).btn
  rw [hcount] at hrest
  rw [final_succ_of_step hstep]
  exact hrest

namespace Machine

/-! ### The events of a button over a run -/

/-- What an instruction can do to the confirmed state of the button `b`, by its outputs (R220). -/
inductive ButtonMove (b : Button) (i : Instr) (s t : State) : Prop
  | kept : (t.hub.btn b).currentPressed = (s.hub.btn b).currentPressed → .press b ∉ t.outputs → .release b ∉ t.outputs →
      t.result ≠ some (.resetDone .hub) → ButtonMove b i s t
  | pressed : (s.hub.btn b).currentPressed = false → (t.hub.btn b).currentPressed = true →
      t.outputs = eventOutputs s.cfg b (some .press) → t.result ≠ some (.resetDone .hub) → ButtonMove b i s t
  | released : (s.hub.btn b).currentPressed = true → (t.hub.btn b).currentPressed = false →
      t.outputs = eventOutputs s.cfg b (some .release) → t.result ≠ some (.resetDone .hub) → ButtonMove b i s t
  | reset : (t.hub.btn b).currentPressed = false → t.result = some (.resetDone .hub) → ButtonMove b i s t

/-- The filter confirms a level by the event it answers, and only then (R210). -/
theorem ButtonState.poll_event {window : BitVec 32} {raw : Bool} {x y : ButtonState} {event : Option ButtonEvent}
    (h : x.poll window raw = (y, event)) :
    match event with
    | none => y.currentPressed = x.currentPressed
    | some .press => x.currentPressed = false ∧ y.currentPressed = true
    | some .release => x.currentPressed = true ∧ y.currentPressed = false := by
  rcases x.poll_cases window raw with ⟨-, hp⟩ | ⟨-, -, hp⟩ | ⟨-, -, -, hp⟩ | ⟨-, -, hc, -, hp⟩ | ⟨-, -, hc, -, hp⟩ <;>
    obtain ⟨rfl, rfl⟩ := Prod.mk.inj (hp.symm.trans h)
  · rfl
  · rfl
  · rfl
  · exact ⟨hc, rfl⟩
  · exact ⟨hc, rfl⟩

theorem buttonMove_of_exec {i : Instr} {s t : State} (b : Button) (h : exec i s = .next t) : ButtonMove b i s t := by
  cases effect_of_exec h with
  | polled a x hi hp =>
    refine .kept ?_ (by simp) (by simp) (by simp)
    by_cases hba : b = a
    · subst hba
      simpa using ButtonState.poll_event hp
    · simp [Hub.btn_setBtn_other _ _ _ _ hba]
  | pollPressed a x hi hp =>
    by_cases hba : b = a
    · subst hba
      obtain ⟨hbefore, hafter⟩ := ButtonState.poll_event hp
      exact .pressed hbefore (by simpa using hafter) (by simp [eventOutputs]) (by simp)
    · exact .kept (by simp [Hub.btn_setBtn_other _ _ _ _ hba]) (by simp [hba]) (by simp) (by simp)
  | pollReleased a x hi hp =>
    by_cases hba : b = a
    · subst hba
      obtain ⟨hbefore, hafter⟩ := ButtonState.poll_event hp
      exact .released hbefore (by simpa using hafter) (by simp [eventOutputs]) (by simp)
    · exact .kept (by simp [Hub.btn_setBtn_other _ _ _ _ hba]) (by simp) (by simp [hba]) (by simp)
  | resetHub slots v w hi => exact .reset (by cases b <;> rfl) rfl
  | silent n q r hq hr => exact .kept (by simp) (by simp) (by simp) (by simpa using Result.ne_resetDone_of_not_tells hr .hub)
  | replied q a r hi hr _ => exact .kept (by simp) (by simp) (by simp) (by simpa using Result.ne_resetDone_of_not_tells hr .hub)
  | recorded q v texts hi | acked q a hi _ | ackedStop q hi => exact .kept (by cases b <;> rfl) (by simp) (by simp) (by simp)
  | _ => exact .kept (by simp) (by simp) (by simp) (by simp)

/-- Outputs without an event of the button leave what the events tell. -/
theorem foldl_pressedAfterOutput {b : Button} {outputs : List Output} (hpress : .press b ∉ outputs)
    (hrelease : .release b ∉ outputs) (pressed : Bool) :
    outputs.foldl (pressedAfterOutput b) (some pressed) = some pressed := by
  induction outputs with
  | nil => rfl
  | cons o os ih =>
    rw [List.mem_cons, not_or] at hpress hrelease
    have ho : pressedAfterOutput b (some pressed) o = some pressed := by
      cases o with
      | press a => exact if_neg fun hab => hpress.1 (congrArg Output.press hab.symm)
      | release a => exact if_neg fun hab => hrelease.1 (congrArg Output.release hab.symm)
      | _ => rfl
    rw [List.foldl_cons, ho, ih hpress.2 hrelease.2]

theorem pressedAfter_of_not_reset {b : Button} {s t : State} (h : t.result ≠ some (.resetDone .hub)) (pressed : Option Bool) :
    pressedAfter b pressed (s, t) = t.outputs.foldl (pressedAfterOutput b) pressed := by
  simp [pressedAfter, resets, h]

theorem pressedAfter_of_reset {b : Button} {s t : State} (h : t.result = some (.resetDone .hub)) (pressed : Bool) :
    pressedAfter b (some pressed) (s, t) = some false := by
  simp [pressedAfter, resets, h]

/-- One step of the alternation law (R220). -/
theorem step_pressed {s t : State} (b : Button) (h : step s = .next t) :
    pressedAfter b (some (s.hub.btn b).currentPressed) (s, t) = some (t.hub.btn b).currentPressed := by
  obtain ⟨-, hidle | ⟨i, e, rest, -, -, -, -, hx⟩⟩ := step_idle_or_exec h
  · have hr : t.result ≠ some (.resetDone .hub) := by rcases hidle.result with hr | hr <;> simp [hr]
    rw [pressedAfter_of_not_reset hr, hidle.outputs, hidle.hub]
    rfl
  · cases buttonMove_of_exec b hx with
    | kept hkept hpress hrelease hr =>
      rw [pressedAfter_of_not_reset hr, foldl_pressedAfterOutput hpress hrelease, hkept, State.load_hub]
    | pressed hbefore hafter hout hr =>
      rw [State.load_hub] at hbefore
      rw [pressedAfter_of_not_reset hr, hout, hbefore, hafter]
      simp [eventOutputs, pressedAfterOutput]
    | released hbefore hafter hout hr =>
      rw [State.load_hub] at hbefore
      rw [pressedAfter_of_not_reset hr, hout, hbefore, hafter]
      simp [eventOutputs, pressedAfterOutput]
    | reset hafter hr => rw [pressedAfter_of_reset hr, hafter]

end Machine

/-- Settles O41: the fold over the run, step by step. -/
theorem buttonEventsAlternate : Obligations.ButtonEventsAlternate := fun b k s =>
  foldl_trace (fun s => some (s.hub.btn b).currentPressed) (pressedAfter b) (fun _ => True)
    (fun _ _ h _ => step_pressed b h) k s fun _ _ => trivial

/-- Settles O42: among the effects only the confirmed press has the press; at the hub's top level only it transmits. -/
theorem pressIsFollowedByItsCommand : Obligations.PressIsFollowedByItsCommand := by
  intro i s t h
  refine ⟨fun b hb => ?press, fun f hl hown hf => ?transmits⟩
  case press =>
    cases effect_of_exec h with
    | pollPressed a x hi hp =>
      obtain rfl : b = a := by simpa using hb
      exact ⟨hi, by simp⟩
    | _ => simp at hb
  case transmits =>
    rcases exec_tx h hf with ⟨a, hi, -⟩ | ⟨rfl, -⟩ | ⟨b, hi, hcmd, hpress⟩ | ⟨b, rfl, -⟩
    · cases hi.1.symm.trans hown
    · cases hown
    · exact ⟨b, hi, hcmd, hpress⟩
    · cases hl

/-- Settles O48: the acknowledge's effects have their one text; what answers Discarded is silent. -/
theorem oneTextPerAcknowledge : Obligations.OneTextPerAcknowledge := by
  intro i s t h
  refine ⟨fun a ha => ?acked, fun hd => ?discarded⟩
  case acked =>
    cases effect_of_exec h with
    | acked q a' hi _ =>
      obtain rfl : a' = a := by simpa using ha
      simp
    | ackedStop q hi =>
      obtain rfl : .stopOk = a := by simpa using ha
      simp [ackText]
    | silent n q r hq hr => exact absurd (Option.some.inj ha) (Result.ne_acked_of_not_tells hr a)
    | replied q a' r hi hr _ => exact absurd (Option.some.inj ha) (Result.ne_acked_of_not_tells hr a)
    | _ => simp at ha
  case discarded =>
    cases effect_of_exec h with
    | silent => simp
    | replied q a r hi hr hne => exact absurd (Option.some.inj hd) hne
    | _ => simp at hd

end Sys2Proof
end

section
/-! PROOFS on the hub's cache: its history over a run, the freshness query, the premise that time does not decrease; O45, O47. -/

namespace Sys2Proof

namespace Machine

/-! ### The cache through an instruction -/

/-- What an instruction can do to the cache, by its result (R238 (a), (b)). -/
inductive CacheMove (i : Instr) (s t : State) : Prop
  | kept : t.hub.cache = s.hub.cache → (∀ v, t.result ≠ some (.data v)) → t.result ≠ some (.acked .stopOk) → CacheMove i s t
  | recorded (v : AdcValue) : Handles i .hub → t.hub.cache = ⟨v, true, s.inputs.now⟩ → t.result = some (.data v) →
      CacheMove i s t
  | invalidated : t.hub.cache = { s.hub.cache with validFlag := false } → t.result = some (.acked .stopOk) → CacheMove i s t
  | reset : t.hub.cache.validFlag = false → t.result = some (.resetDone .hub) → CacheMove i s t

theorem cacheMove_of_exec {i : Instr} {s t : State} (h : exec i s = .next t) : CacheMove i s t := by
  cases effect_of_exec h with
  | recorded q v texts hi => exact .recorded v hi rfl rfl
  | ackedStop q hi => exact .invalidated rfl rfl
  | resetHub slots v w hi => exact .reset rfl rfl
  | acked q a hi ha => exact .kept (by simp) (by simp) (by simpa using ha)
  | silent n q r hq hr =>
    exact .kept (by simp) (by simpa using Result.ne_data_of_not_tells hr)
      (by simpa using Result.ne_acked_of_not_tells hr .stopOk)
  | replied q a r hi hr _ =>
    exact .kept (by simp) (by simpa using Result.ne_data_of_not_tells hr)
      (by simpa using Result.ne_acked_of_not_tells hr .stopOk)
  | _ => exact .kept (by simp) (by simp) (by simp)

/-! ### The cache's history -/

section
variable {k : Cache} {s t : State}

theorem cacheAfter_of_data {v : AdcValue} (h : t.result = some (.data v)) : cacheAfter k (s, t) = ⟨v, true, t.inputs.now⟩ := by
  simp [cacheAfter, h]

theorem cacheAfter_of_stopOk (h : t.result = some (.acked .stopOk)) : cacheAfter k (s, t) = { k with validFlag := false } := by
  simp [cacheAfter, h]

theorem cacheAfter_of_other (hdata : ∀ v, t.result ≠ some (.data v)) (hstop : t.result ≠ some (.acked .stopOk)) :
    cacheAfter k (s, t) = k := by
  unfold cacheAfter
  split
  case h_1 v hr => exact absurd hr (hdata v)
  case h_2 hr => exact absurd hr hstop
  case h_3 => rfl

/-- One step of the cache's history. -/
theorem step_cache (h : step s = .next t) (hreset : resets .hub (s, t) = false) :
    cacheAfter s.hub.cache (s, t) = t.hub.cache := by
  obtain ⟨-, hidle | ⟨i, e, rest, -, -, -, -, hx⟩⟩ := step_idle_or_exec h
  · rw [hidle.hub]
    exact cacheAfter_of_other (fun v => by rcases hidle.result with hr | hr <;> simp [hr])
      (by rcases hidle.result with hr | hr <;> simp [hr])
  · cases cacheMove_of_exec hx with
    | kept hkept hdata hstop => rw [cacheAfter_of_other hdata hstop, hkept, State.load_hub]
    | recorded v _ hk hr =>
      obtain ⟨-, -, -, -, hinputs, -⟩ := exec_frame hx
      rw [cacheAfter_of_data hr, hk, hinputs]
    | invalidated hk hr => rw [cacheAfter_of_stopOk hr, hk, State.load_hub]
    | reset _ hr => simp [resets, hr] at hreset

end

end Machine

open Machine

/-- Settles O47: the fold over the run, step by step. -/
theorem cacheIsItsHistory : Obligations.CacheIsItsHistory :=
  foldl_trace (fun s => s.hub.cache) cacheAfter (fun p => resets .hub p = false) fun _ _ => step_cache

namespace Machine

/-! ### The times to come -/

section
variable {s t : State} {e : Event} {rest : List Event} {i : Instr}

/-- The times to come depend on the configuration and the moves alone. -/
theorem times_eq_of_agenda (hcfg : t.cfg = s.cfg) (ha : t.agenda = s.agenda) : t.times = s.times := by
  rw [State.times, State.times, hcfg, ha]

/-- A move that takes the time gives it first, and one that does not gives none. -/
theorem times_cons (ha : s.agenda = e :: rest) (hd : decode s.cfg e.word = .ok i) (hcfg : t.cfg = s.cfg) (ht : t.agenda = rest) :
    s.times = if TakesTime i then e.inputs.now :: t.times else t.times := by
  rw [State.times, State.times, ha, hcfg, ht]
  by_cases htakes : TakesTime i
  · rw [if_pos htakes, List.filterMap_cons_some]
    simp [hd, htakes]
  · rw [if_neg htakes, List.filterMap_cons_none]
    simp [hd, htakes]

/-- A move leaves no time behind that was not ahead. -/
theorem times_sublist (ha : s.agenda = e :: rest) (hd : decode s.cfg e.word = .ok i) (hcfg : t.cfg = s.cfg) (ht : t.agenda = rest) :
    t.times.Sublist s.times := by
  rw [times_cons ha hd hcfg ht]
  split
  · exact List.sublist_cons_self _ _
  · exact List.Sublist.refl _

/-- In a run the next move's time, if it takes one, is not below the stamp of a valid cache (R39). -/
theorem stamp_le_now (htime : s.TimeNonDecreasing) (ha : s.agenda = e :: rest) (hd : decode s.cfg e.word = .ok i)
    (htakes : TakesTime i) (hvalid : s.hub.cache.validFlag = true) : s.hub.cache.lastReceivedTimestamp ≤ e.inputs.now := by
  refine htime.2 hvalid _ ?_
  rw [times_cons (t := { s with agenda := rest }) ha hd rfl rfl, if_pos htakes]
  exact List.mem_cons_self

/-- A move that takes the time takes one not above the times after it. -/
theorem now_le_times (htime : s.TimeNonDecreasing) (ha : s.agenda = e :: rest) (hd : decode s.cfg e.word = .ok i)
    (htakes : TakesTime i) (hcfg : t.cfg = s.cfg) (ht : t.agenda = rest) : ∀ n ∈ t.times, e.inputs.now ≤ n := by
  have hpairwise := htime.1
  rw [times_cons ha hd hcfg ht, if_pos htakes, List.pairwise_cons] at hpairwise
  exact hpairwise.1

/-- The premise on time is kept by a move of a run: a new stamp is the time of the drain that recorded it. -/
theorem exec_keeps_time (htime : s.TimeNonDecreasing) (hl : level i = .top) (ha : s.agenda = e :: rest)
    (hd : decode s.cfg e.word = .ok i) (hx : exec i (s.load e rest) = .next t) : t.TimeNonDecreasing := by
  obtain ⟨-, hcfg, hagenda, -⟩ := exec_frame hx
  rw [State.load_cfg] at hcfg
  rw [State.load_agenda] at hagenda
  have hsub := times_sublist ha hd hcfg hagenda
  refine ⟨htime.1.sublist hsub, fun hvalid n hn => ?_⟩
  cases cacheMove_of_exec hx with
  | kept hk _ _ =>
    rw [hk] at hvalid ⊢
    exact htime.2 hvalid n (hsub.mem hn)
  | recorded v hi hk _ =>
    rw [hk]
    exact now_le_times htime ha hd (.inl (hi.eq_drain hl)) hcfg hagenda n hn
  | invalidated hk _ =>
    rw [hk] at hvalid
    cases hvalid
  | reset hk _ => cases hk.symm.trans hvalid

/-- The freshness query as a whole state. -/
theorem exec_hubQuery_eq (s : State) :
    exec .hubQuery s = .next { s with
      outputs := []
      result := some (.receiving (s.hub.cache.receiving s.cfg.freshnessWindowMs.toNat s.inputs.now s.draws)) } := rfl

theorem takes_of_inRun (hrun : s.InRun) (h : Takes s e rest) : s.agenda = e :: rest := by
  cases h with
  | bench hb => cases hrun.symm.trans hb
  | move _ _ ha => exact ha

end

end Machine

/-- Settles O45: the query by the premise that its time is not below a valid stamp, which a run keeps. -/
theorem queryAnswersFreshness : Obligations.QueryAnswersFreshness := by
  refine ⟨fun s => ⟨fun hinvalid => ?invalid, fun hvalid hle => ?stated, ⟨_, exec_hubQuery_eq s⟩⟩,
    fun s t hrun htime h => ⟨(step_cfg_bench h).2, ?premise, fun hc => ?decided⟩⟩
  case invalid =>
    rw [exec_hubQuery_eq]
    simp only [Cache.receiving, hinvalid, Bool.false_eq_true, if_false]
  case stated =>
    refine ⟨_, exec_hubQuery_eq s, ?_⟩
    rw [Cache.receiving_of_le _ _ fun _ => hle, and_iff_right hvalid]
  case premise =>
    obtain ⟨-, hidle | ⟨i, e, rest, -, htakes, hd, hl, hx⟩⟩ := step_idle_or_exec h
    · rw [State.TimeNonDecreasing, times_eq_of_agenda hidle.cfg hidle.agenda, hidle.hub]
      exact htime
    · exact exec_keeps_time htime (hl hrun) (takes_of_inRun hrun htakes) hd hx
  case decided =>
    obtain ⟨-, hidle | ⟨i, e, rest, hi, htakes, hd, -, hx⟩⟩ := step_idle_or_exec h
    · cases hidle.current.symm.trans hc
    · obtain rfl := Option.some.inj (hi.symm.trans hc)
      obtain rfl := Host.Outcome.next.inj ((exec_hubQuery_eq _).symm.trans hx)
      have hstamp := stamp_le_now htime (takes_of_inRun hrun htakes) hd (.inr rfl)
      exact ⟨_, rfl, Cache.receiving_of_le _ _ hstamp⟩

end Sys2Proof
end

section
/-! PROOFS on the invariant and on what cannot be told apart: related states stay related through every instruction; O55, O59,
O60. -/

namespace Sys2Proof

namespace Machine

/-! ### Settled buttons -/

/-- The filter keeps a button settled under a window that is not 0 (R217). -/
theorem ButtonState.Settled.poll {window : BitVec 32} {x : ButtonState} (h : x.Settled window) (hpos : 1 ≤ window.toNat)
    (raw : Bool) : (x.poll window raw).1.Settled window := by
  refine ⟨x.poll_counter_le window raw h.1, ?_⟩
  rcases x.poll_cases window raw with ⟨-, hp⟩ | ⟨-, -, hp⟩ | ⟨-, hne, hquiet, hp⟩ | ⟨-, -, -, -, hp⟩ | ⟨-, -, -, -, hp⟩ <;> rw [hp]
  · rintro rfl
    cases hpos
  · exact h.2
  · intro hzero
    refine hquiet.resolve_left fun hone => hone ?_
    have hcount := congrArg BitVec.toNat hzero
    rw [toNat_countDown hne] at hcount
    bv_omega
  · exact fun _ => rfl
  · exact fun _ => rfl

/-- An instruction leaves a button's record, runs the filter on it, or resets it. -/
theorem exec_btn {i : Instr} {s t : State} (b : Button) (h : exec i s = .next t) :
    t.hub.btn b = s.hub.btn b ∨ (∃ raw, t.hub.btn b = ((s.hub.btn b).poll s.cfg.debounceTicks raw).1)
      ∨ t.hub.btn b = .atReset := by
  have hpoll (a : Button) (x : ButtonState) (event : Option ButtonEvent)
      (hp : (s.hub.btn a).poll s.cfg.debounceTicks (s.rawPressed a) = (x, event)) :
      (s.hub.setBtn a x).btn b = s.hub.btn b
        ∨ ∃ raw, (s.hub.setBtn a x).btn b = ((s.hub.btn b).poll s.cfg.debounceTicks raw).1 := by
    by_cases hba : b = a
    · subst hba
      exact .inr ⟨s.rawPressed b, by rw [hp, Hub.btn_setBtn_same]⟩
    · exact .inl (Hub.btn_setBtn_other _ _ _ _ hba)
  cases effect_of_exec h with
  | polled a x _ hp | pollPressed a x _ hp | pollReleased a x _ hp => exact (hpoll a x _ hp).imp_right .inl
  | resetHub => exact .inr (.inr (by cases b <;> rfl))
  | recorded | acked | ackedStop => exact .inl (by cases b <;> rfl)
  | _ => exact .inl (by simp)

theorem step_settled {s t : State} (b : Button) (h : step s = .next t) (hs : (s.hub.btn b).Settled s.cfg.debounceTicks) :
    (t.hub.btn b).Settled s.cfg.debounceTicks := by
  obtain ⟨hwf, hidle | ⟨i, e, rest, -, -, -, -, hx⟩⟩ := step_idle_or_exec h
  · rwa [hidle.hub]
  · obtain ⟨-, -, -, hpos, -⟩ := hwf
    rcases exec_btn b hx with hb | ⟨raw, hb⟩ | hb <;> rw [hb]
    · exact hs
    · exact hs.poll hpos raw
    · exact ⟨Nat.zero_le _, fun _ => rfl⟩

end Machine

open Machine

/-- Settles O59: each part of the invariant is kept by every step. -/
theorem stepKeepsTheInvariant : Obligations.StepKeepsTheInvariant := by
  rintro s t ⟨hwf, hsmp, hhub, hmode, hone, htwo⟩ h
  obtain ⟨hcfg, -⟩ := step_cfg_bench h
  rw [State.Inv, hcfg]
  exact ⟨hwf, step_ring .sampler h hsmp, step_ring .hub h hhub, step_mode_ne_error h hmode, step_settled .one h hone,
    step_settled .two h htwo⟩

namespace Machine

/-! ### Related states -/

/-- A relation between states that the operations on node `n` keep, and in which related states show the same. -/
structure Simulation (n : Node) (R : State → State → Prop) : Prop where
  cfg {a b} : R a b → a.cfg = b.cfg
  inputs {a b} : R a b → a.inputs = b.inputs
  emit {a b} (o : Output) : R a b → R (a.emit o) (b.emit o)
  ret {a b} (r : Result) : R a b → R (a.ret r) (b.ret r)
  count {a b} : R a b → (a.queue n).count = (b.queue n).count
  enq {a b} (f : Frame) : R a b → ((a.queue n).enq f = none ∧ (b.queue n).enq f = none)
    ∨ ∃ p q, (a.queue n).enq f = some p ∧ (b.queue n).enq f = some q ∧ R (a.setQueue n p) (b.setQueue n q)
  deq {a b} : R a b → ((a.queue n).deq = none ∧ (b.queue n).deq = none)
    ∨ ∃ f p q, (a.queue n).deq = some (f, p) ∧ (b.queue n).deq = some (f, q) ∧ R (a.setQueue n p) (b.setQueue n q)
  reset {a b} : R a b → R (resetNode n a) (resetNode n b)

/-- A simulation that the sampler's own operations keep. -/
structure SamplerSimulation (R : State → State → Prop) : Prop extends Simulation .sampler R where
  mode {a b} : R a b → a.smp.mode = b.smp.mode
  setMode {a b} (m : SamplerMode) : R a b → R (a.setMode m) (b.setMode m)
  countSample {a b} : R a b → R a.countSample b.countSample

/-- `H.btn[b]` written (R30). -/
def State.setBtn (s : State) (b : Button) (x : ButtonState) : State := { s with hub := s.hub.setBtn b x }

/-- `H.cache` written whole (R233). -/
def State.setCache (s : State) (k : Cache) : State := { s with hub := { s.hub with cache := k } }

theorem recordData_of_none {s : State} {v : AdcValue} (h : s.cfg.dataText = none) :
    recordData v s = (s.setCache ⟨v, true, s.inputs.now⟩).ret (.data v) := by
  simp only [recordData, h, State.setCache]

theorem recordData_of_some {s : State} {v : AdcValue} {format : Nat} (h : s.cfg.dataText = some format) :
    recordData v s = ((s.setCache ⟨v, true, s.inputs.now⟩).emit (.text (Config.renderData format v))).ret (.data v) := by
  simp only [recordData, h, State.setCache]

/-- A simulation that the hub's own operations keep. -/
structure HubSimulation (R : State → State → Prop) : Prop extends Simulation .hub R where
  btn {a b} (x : Button) : R a b → a.hub.btn x = b.hub.btn x
  setBtn {a b} (x : Button) (y : ButtonState) : R a b → R (a.setBtn x y) (b.setBtn x y)
  setCache {a b} (k : Cache) : R a b → R (a.setCache k) (b.setCache k)
  invalidate {a b} : R a b → R a.invalidate b.invalidate
  query {a b} : R a b → R (queryReceiving a) (queryReceiving b)

section
variable {n : Node} {R : State → State → Prop} {a b : State} (S : Simulation n R)
include S

theorem Simulation.transmit (f : Frame) (h : R a b) : R (a.transmit f) (b.transmit f) := S.emit (.tx f) h

theorem Simulation.enqueueAt (f : Frame) (h : R a b) : R (Machine.enqueueAt n f a) (Machine.enqueueAt n f b) := by
  unfold Machine.enqueueAt
  rcases S.enq f h with ⟨ha, hb⟩ | ⟨p, q, ha, hb, hpq⟩ <;> rw [ha, hb]
  · exact S.ret _ h
  · exact S.ret _ hpq

theorem Simulation.drainWith {consume : Frame → State → State}
    (hconsume : ∀ (f : Frame) {a b : State}, R a b → R (consume f a) (consume f b)) (h : R a b) :
    R (Machine.drainWith n consume a) (Machine.drainWith n consume b) := by
  unfold Machine.drainWith
  rcases S.deq h with ⟨ha, hb⟩ | ⟨f, p, q, ha, hb, hpq⟩ <;> rw [ha, hb]
  · exact S.ret _ h
  · exact hconsume f hpq

theorem Simulation.deqAt (h : R a.begin b.begin) : ∃ t u, exec (.deq n) a = .next t ∧ exec (.deq n) b = .next u ∧ R t u := by
  have hdeq := S.deq h
  rw [State.queue_begin, State.queue_begin] at hdeq
  rcases hdeq with ⟨ha, hb⟩ | ⟨f, p, q, ha, hb, hpq⟩
  · exact ⟨_, _, exec_deq_of_none ha, exec_deq_of_none hb, S.ret (.dequeued none) h⟩
  · have hret := S.ret (.dequeued (some f)) hpq
    rw [State.begin_setQueue_ret_eq, State.begin_setQueue_ret_eq] at hret
    exact ⟨_, _, exec_deq_of_some ha, exec_deq_of_some hb, hret⟩

theorem Simulation.qstatAt (h : R a.begin b.begin) :
    ∃ t u, exec (.qstat n) a = .next t ∧ exec (.qstat n) b = .next u ∧ R t u := by
  refine ⟨_, _, exec_qstat n a, exec_qstat n b, ?_⟩
  have hcount := S.count h
  rw [State.queue_begin, State.queue_begin] at hcount
  simp only [Queue.isEmpty, Queue.isFull, hcount]
  exact S.ret _ h

end

section
variable {R : State → State → Prop} {a b : State} (S : SamplerSimulation R)
include S

theorem SamplerSimulation.start (h : R a b) : R (startCommand a) (startCommand b) := by
  have hm := S.mode h
  by_cases hidle : a.smp.mode = .idle
  · rw [startCommand_of_idle hidle, startCommand_of_idle (hm ▸ hidle), S.cfg h, S.inputs h]
    exact S.ret _ (S.transmit _ (S.emit _ (S.setMode _ h)))
  · rw [startCommand_of_not_idle hidle, startCommand_of_not_idle (hm ▸ hidle)]
    exact S.ret _ h

theorem SamplerSimulation.stop (h : R a b) : R (stopCommand a) (stopCommand b) := by
  unfold stopCommand
  rw [S.mode h, S.cfg h, S.inputs h]
  cases b.smp.mode with
  | sampling => exact S.ret _ (S.transmit _ (S.emit _ (S.setMode _ h)))
  | idle => exact S.ret _ (S.transmit _ h)
  | error =>
    cases b.cfg.ackOnStopInError with
    | none => exact S.ret _ h
    | some x => exact S.ret _ (S.transmit _ h)

theorem SamplerSimulation.unknown (h : R a b) : R (unknownCommand a) (unknownCommand b) := by
  unfold unknownCommand
  rw [S.cfg h, S.inputs h]
  exact S.ret _ (S.transmit _ h)

theorem SamplerSimulation.tick (h : R a b) : R (samplerTick a) (samplerTick b) := by
  unfold samplerTick
  rw [S.mode h, S.cfg h, S.inputs h]
  cases b.smp.mode with
  | idle => exact S.ret _ h
  | error => exact S.ret _ h
  | sampling =>
    cases b.inputs.analog with
    | err hw => exact S.ret _ (S.emit _ h)
    | ok raw =>
      dsimp only
      cases encAdc b.cfg raw with
      | error e => exact S.ret _ (S.emit _ h)
      | ok f => exact S.ret _ (S.countSample (S.transmit _ (S.emit _ h)))

theorem SamplerSimulation.consume (f : Frame) (h : R a b) : R (samplerConsume f a) (samplerConsume f b) := by
  unfold samplerConsume
  rw [S.cfg h]
  cases decCmd b.cfg f with
  | error e => exact S.ret _ h
  | ok x =>
    cases x with
    | start => exact S.start h
    | stop => exact S.stop h
    | unrecognised id tag => exact S.unknown h

/-- Related states stay related through every instruction of the sampler. -/
theorem SamplerSimulation.exec {i : Instr} (hi : owner i = some .sampler) (h : R a.begin b.begin) :
    ∃ t u, Machine.exec i a = .next t ∧ Machine.exec i b = .next u ∧ R t u := by
  cases i with
  | cmdStart | smpStart => exact ⟨_, _, rfl, rfl, S.start h⟩
  | cmdStop | smpStop => exact ⟨_, _, rfl, rfl, S.stop h⟩
  | cmdUnrecognised | smpUnknown => exact ⟨_, _, rfl, rfl, S.unknown h⟩
  | smpTick => exact ⟨_, _, rfl, rfl, S.tick h⟩
  | smpDrain => exact ⟨_, _, rfl, rfl, S.drainWith (fun f _ _ h => S.consume f h) h⟩
  | smpRx f => exact ⟨_, _, rfl, rfl, S.enqueueAt f h⟩
  | enq n f => cases hi; exact ⟨_, _, rfl, rfl, S.enqueueAt f h⟩
  | deq n => cases hi; exact S.deqAt h
  | qstat n => cases hi; exact S.qstatAt h
  | reset n => cases hi; exact ⟨_, _, rfl, rfl, S.ret _ (S.reset h)⟩
  | _ => cases hi

end

section
variable {R : State → State → Prop} {a b : State} (S : HubSimulation R)
include S

theorem HubSimulation.press (x : Button) (h : R a b) : R (pressButton x a) (pressButton x b) := by
  unfold pressButton
  rw [S.cfg h, S.inputs h]
  exact S.ret _ (S.transmit _ h)

theorem HubSimulation.poll (x : Button) (h : R a b) : R (pollButton x a) (pollButton x b) := by
  have ha : (a.hub.btn x).poll a.cfg.debounceTicks (a.rawPressed x) = (b.hub.btn x).poll b.cfg.debounceTicks (b.rawPressed x) := by
    rw [State.rawPressed, State.rawPressed, S.btn x h, S.cfg h, S.inputs h]
  rcases hb : (b.hub.btn x).poll b.cfg.debounceTicks (b.rawPressed x) with ⟨y, _ | _ | _⟩ <;> rw [hb] at ha
  · rw [pollButton_of_none ha, pollButton_of_none hb]
    exact S.ret _ (S.setBtn x y h)
  · rw [pollButton_of_press ha, pollButton_of_press hb]
    exact S.press x (S.emit (.press x) (S.setBtn x y h))
  · rw [pollButton_of_release ha, pollButton_of_release hb]
    exact S.ret _ (S.emit _ (S.setBtn x y h))

theorem HubSimulation.record (v : AdcValue) (h : R a b) : R (recordData v a) (recordData v b) := by
  have hset := S.setCache ⟨v, true, b.inputs.now⟩ h
  rw [← S.inputs h] at hset
  cases hb : b.cfg.dataText with
  | none =>
    rw [recordData_of_none (S.cfg h ▸ hb), recordData_of_none hb, ← S.inputs h]
    exact S.ret _ hset
  | some format =>
    rw [recordData_of_some (S.cfg h ▸ hb), recordData_of_some hb, ← S.inputs h]
    exact S.ret _ (S.emit _ hset)

theorem HubSimulation.report (x : Ack) (h : R a b) : R (reportAck x a) (reportAck x b) := by
  unfold reportAck
  rw [S.cfg h]
  cases x with
  | startOk => exact S.ret _ (S.emit _ h)
  | stopOk => exact S.ret _ (S.invalidate (S.emit _ h))
  | error => exact S.ret _ (S.emit _ h)

theorem HubSimulation.consume (f : Frame) (h : R a b) : R (hubConsume f a) (hubConsume f b) := by
  unfold hubConsume
  rw [S.cfg h]
  split
  · cases decAdc b.cfg f with
    | error e => exact S.ret _ h
    | ok v => exact S.record v h
  · split
    · cases decAck b.cfg f with
      | error e => exact S.ret _ h
      | ok x => exact S.report x h
    · exact S.ret _ h

/-- Related states stay related through every instruction of the hub. -/
theorem HubSimulation.exec {i : Instr} (hi : owner i = some .hub) (h : R a.begin b.begin) :
    ∃ t u, Machine.exec i a = .next t ∧ Machine.exec i b = .next u ∧ R t u := by
  cases i with
  | dataAdc v => exact ⟨_, _, rfl, rfl, S.record v h⟩
  | hubData v => exact ⟨_, _, rfl, rfl, S.record v h⟩
  | ackStartOk => exact ⟨_, _, rfl, rfl, S.report .startOk h⟩
  | ackStopOk => exact ⟨_, _, rfl, rfl, S.report .stopOk h⟩
  | ackError => exact ⟨_, _, rfl, rfl, S.report .error h⟩
  | hubAck x => exact ⟨_, _, rfl, rfl, S.report x h⟩
  | btnPoll x => exact ⟨_, _, rfl, rfl, S.poll x h⟩
  | hubPress x => exact ⟨_, _, rfl, rfl, S.press x h⟩
  | hubRelease | hubEdge => exact ⟨_, _, rfl, rfl, S.ret _ h⟩
  | hubQuery => exact ⟨_, _, rfl, rfl, S.query h⟩
  | hubDrain => exact ⟨_, _, rfl, rfl, S.drainWith (fun f _ _ h => S.consume f h) h⟩
  | hubRx f => exact ⟨_, _, rfl, rfl, S.enqueueAt f h⟩
  | enq n f => cases hi; exact ⟨_, _, rfl, rfl, S.enqueueAt f h⟩
  | deq n => cases hi; exact S.deqAt h
  | qstat n => cases hi; exact S.qstatAt h
  | reset n => cases hi; exact ⟨_, _, rfl, rfl, S.ret _ (S.reset h)⟩
  | _ => cases hi

end

/-- A codec operation answers by the configuration alone (R130). -/
theorem exec_codec {i : Instr} (hi : owner i = none) (c : Config) :
    ∃ r, ∀ s : State, s.cfg = c → exec i s = .next (s.begin.ret r) := by
  cases i with
  | encCmd x => exact ⟨.frame (encCmd c x), by rintro s rfl; rfl⟩
  | encAck x => exact ⟨.frame (encAck c x), by rintro s rfl; rfl⟩
  | encAdc v =>
    cases h : encAdc c v with
    | ok f => exact ⟨_, by rintro s rfl; exact exec_encAdc_of_ok h⟩
    | error e => exact ⟨_, by rintro s rfl; exact exec_encAdc_of_error h⟩
  | decCmd f =>
    cases h : decCmd c f with
    | ok x => exact ⟨_, by rintro s rfl; exact exec_decCmd_of_ok h⟩
    | error e => exact ⟨_, by rintro s rfl; exact exec_decCmd_of_error h⟩
  | decAdc f =>
    cases h : decAdc c f with
    | ok v => exact ⟨_, by rintro s rfl; exact exec_decAdc_of_ok h⟩
    | error e => exact ⟨_, by rintro s rfl; exact exec_decAdc_of_error h⟩
  | decAck f =>
    cases h : decAck c f with
    | ok x => exact ⟨_, by rintro s rfl; exact exec_decAck_of_ok h⟩
    | error e => exact ⟨_, by rintro s rfl; exact exec_decAck_of_error h⟩
  | _ => cases hi

/-! ### States that differ away from one node -/

/-- `b` is `a` but for the hub and what no handler of the sampler sees. -/
def AgreeAtSampler (a b : State) : Prop :=
  ∃ hub agenda bench, b = { a with hub := hub, agenda := agenda, bench := bench }

/-- `b` is `a` but for the sampler and what no handler of the hub sees. -/
def AgreeAtHub (a b : State) : Prop :=
  ∃ smp agenda bench, b = { a with smp := smp, agenda := agenda, bench := bench }

theorem agreeAtSampler_simulation : SamplerSimulation AgreeAtSampler where
  cfg := by rintro a _ ⟨hub, agenda, bench, rfl⟩; rfl
  inputs := by rintro a _ ⟨hub, agenda, bench, rfl⟩; rfl
  emit := by rintro a _ o ⟨hub, agenda, bench, rfl⟩; exact ⟨hub, agenda, bench, rfl⟩
  ret := by rintro a _ r ⟨hub, agenda, bench, rfl⟩; exact ⟨hub, agenda, bench, rfl⟩
  count := by rintro a _ ⟨hub, agenda, bench, rfl⟩; rfl
  enq := by
    rintro a _ f ⟨hub, agenda, bench, rfl⟩
    cases hq : a.smp.q.enq f with
    | none => exact .inl ⟨hq, hq⟩
    | some p => exact .inr ⟨p, p, hq, hq, hub, agenda, bench, rfl⟩
  deq := by
    rintro a _ ⟨hub, agenda, bench, rfl⟩
    cases hq : a.smp.q.deq with
    | none => exact .inl ⟨hq, hq⟩
    | some p => exact .inr ⟨p.1, p.2, p.2, hq, hq, hub, agenda, bench, rfl⟩
  reset := by rintro a _ ⟨hub, agenda, bench, rfl⟩; exact ⟨hub, agenda, bench, rfl⟩
  mode := by rintro a _ ⟨hub, agenda, bench, rfl⟩; rfl
  setMode := by rintro a _ m ⟨hub, agenda, bench, rfl⟩; exact ⟨hub, agenda, bench, rfl⟩
  countSample := by rintro a _ ⟨hub, agenda, bench, rfl⟩; exact ⟨hub, agenda, bench, rfl⟩

theorem agreeAtHub_simulation : HubSimulation AgreeAtHub where
  cfg := by rintro a _ ⟨smp, agenda, bench, rfl⟩; rfl
  inputs := by rintro a _ ⟨smp, agenda, bench, rfl⟩; rfl
  emit := by rintro a _ o ⟨smp, agenda, bench, rfl⟩; exact ⟨smp, agenda, bench, rfl⟩
  ret := by rintro a _ r ⟨smp, agenda, bench, rfl⟩; exact ⟨smp, agenda, bench, rfl⟩
  count := by rintro a _ ⟨smp, agenda, bench, rfl⟩; rfl
  enq := by
    rintro a _ f ⟨smp, agenda, bench, rfl⟩
    cases hq : a.hub.q.enq f with
    | none => exact .inl ⟨hq, hq⟩
    | some p => exact .inr ⟨p, p, hq, hq, smp, agenda, bench, rfl⟩
  deq := by
    rintro a _ ⟨smp, agenda, bench, rfl⟩
    cases hq : a.hub.q.deq with
    | none => exact .inl ⟨hq, hq⟩
    | some p => exact .inr ⟨p.1, p.2, p.2, hq, hq, smp, agenda, bench, rfl⟩
  reset := by rintro a _ ⟨smp, agenda, bench, rfl⟩; exact ⟨smp, agenda, bench, rfl⟩
  btn := by rintro a _ x ⟨smp, agenda, bench, rfl⟩; rfl
  setBtn := by rintro a _ x y ⟨smp, agenda, bench, rfl⟩; exact ⟨smp, agenda, bench, rfl⟩
  setCache := by rintro a _ k ⟨smp, agenda, bench, rfl⟩; exact ⟨smp, agenda, bench, rfl⟩
  invalidate := by rintro a _ ⟨smp, agenda, bench, rfl⟩; exact ⟨smp, agenda, bench, rfl⟩
  query := by rintro a _ ⟨smp, agenda, bench, rfl⟩; exact ⟨smp, agenda, bench, rfl⟩

theorem agreeAtSampler_begin {a b : State} (hcfg : a.cfg = b.cfg) (hin : a.inputs = b.inputs) (hdraws : a.draws = b.draws)
    (hsmp : a.smp = b.smp) : AgreeAtSampler a.begin b.begin :=
  ⟨b.hub, b.agenda, b.bench, by rw [State.begin, State.begin, hcfg, hin, hdraws, hsmp]⟩

theorem agreeAtHub_begin {a b : State} (hcfg : a.cfg = b.cfg) (hin : a.inputs = b.inputs) (hdraws : a.draws = b.draws)
    (hhub : a.hub = b.hub) : AgreeAtHub a.begin b.begin :=
  ⟨b.smp, b.agenda, b.bench, by rw [State.begin, State.begin, hcfg, hin, hdraws, hhub]⟩

end Machine

/-- Settles O55: what differs away from the owner's node stays away from it, and from what the step shows. -/
theorem nodesDoNotInterfere : Obligations.NodesDoNotInterfere := by
  intro i s₁ s₂ t₁ t₂ h₁ h₂ hcfg
  refine ⟨fun hown hin hdraws hsmp => ?sampler, fun hown hin hdraws hhub => ?hub, fun hown => ?codec⟩
  case sampler =>
    obtain ⟨t, u, ht, hu, hub, agenda, bench, rfl⟩ :=
      agreeAtSampler_simulation.exec hown (agreeAtSampler_begin hcfg hin hdraws hsmp)
    obtain rfl := Host.Outcome.next.inj (ht.symm.trans h₁)
    obtain rfl := Host.Outcome.next.inj (hu.symm.trans h₂)
    exact ⟨rfl, rfl, rfl⟩
  case hub =>
    obtain ⟨t, u, ht, hu, smp, agenda, bench, rfl⟩ := agreeAtHub_simulation.exec hown (agreeAtHub_begin hcfg hin hdraws hhub)
    obtain rfl := Host.Outcome.next.inj (ht.symm.trans h₁)
    obtain rfl := Host.Outcome.next.inj (hu.symm.trans h₂)
    exact ⟨rfl, rfl, rfl⟩
  case codec =>
    obtain ⟨r, hr⟩ := exec_codec hown s₂.cfg
    obtain rfl := Host.Outcome.next.inj ((hr s₁ hcfg).symm.trans h₁)
    obtain rfl := Host.Outcome.next.inj ((hr s₂ rfl).symm.trans h₂)
    exact ⟨rfl, rfl⟩

namespace Machine

/-! ### States that differ in what is unspecified after reset -/

/-- `s` with other queues and another cache. -/
def State.vary (s : State) (p q : Queue) (k : Cache) : State :=
  { s with smp := { s.smp with q := p }, hub := { s.hub with q := q, cache := k } }

/-- `b` is `a` but for dead slots and the contents of an invalid cache. -/
def Varies (a b : State) : Prop :=
  ∃ p q k, a.smp.q.Same p ∧ a.hub.q.Same q ∧ a.hub.cache.Same k ∧ b = a.vary p q k

theorem same_iff_varies (a b : State) : a.Same b ↔ Varies a b := by
  constructor
  · obtain ⟨_, ⟨_, _, _⟩, ⟨_, _, _, _⟩, _, _, _, _, _, _⟩ := a
    obtain ⟨_, ⟨p, _, _⟩, ⟨q, _, _, k⟩, _, _, _, _, _, _⟩ := b
    rintro ⟨rfl, hsmp, rfl, rfl, hhub, rfl, rfl, hcache, rfl, rfl, rfl, rfl, rfl, rfl⟩
    exact ⟨p, q, k, hsmp, hhub, hcache, rfl⟩
  · rintro ⟨p, q, k, hsmp, hhub, hcache, rfl⟩
    exact ⟨rfl, hsmp, rfl, rfl, hhub, rfl, rfl, hcache, rfl, rfl, rfl, rfl, rfl, rfl⟩

theorem Queue.Same.refl_of_ring {q : Queue} (h : q.Ring) : q.Same q := ⟨h, rfl, rfl, rfl, rfl⟩

theorem Queue.Same.symm {p q : Queue} (h : p.Same q) : q.Same p := by
  obtain ⟨hring, hhead, htail, hcount, hcontents⟩ := h
  refine ⟨?_, hhead.symm, htail.symm, hcount.symm, hcontents.symm⟩
  rwa [Queue.Ring, ← hhead, ← htail, ← hcount]

/-- The two rings are the same, so `ENQ` finds room in both or in none, and puts the frame behind the same live entries. -/
theorem Queue.Same.enq {p q : Queue} (h : p.Same q) (f : Frame) :
    (p.enq f = none ∧ q.enq f = none) ∨ ∃ p' q', p.enq f = some p' ∧ q.enq f = some q' ∧ p'.Same q' := by
  have hqring := h.symm.1
  obtain ⟨hring, hhead, htail, hcount, hcontents⟩ := h
  cases hp : p.enq f with
  | none =>
    refine .inl ⟨rfl, ?_⟩
    rwa [Queue.enq_eq_none, ← hcount, ← Queue.enq_eq_none p f]
  | some p' =>
    obtain ⟨hroom, hp'⟩ := (Queue.enq_eq_some p p' f).1 hp
    obtain ⟨q', hq⟩ := Queue.exists_enq_of_lt (q := q) f (hcount ▸ hroom)
    obtain ⟨-, hq'⟩ := (Queue.enq_eq_some q q' f).1 hq
    refine .inr ⟨p', q', rfl, hq, hring.enq hp, ?_, ?_, ?_, ?_⟩
    · rw [hp', hq', hhead]
    · rw [hp', hq']; exact htail
    · rw [hp', hq', hcount]
    · rw [Queue.contents_enq hring hp, Queue.contents_enq hqring hq, hcontents]

/-- The live entries are the same, so `DEQ` takes the same frame from both or none from either. -/
theorem Queue.Same.deq {p q : Queue} (h : p.Same q) :
    (p.deq = none ∧ q.deq = none) ∨ ∃ f p' q', p.deq = some (f, p') ∧ q.deq = some (f, q') ∧ p'.Same q' := by
  obtain ⟨hring, hhead, htail, hcount, hcontents⟩ := h
  cases hp : p.deq with
  | none =>
    refine .inl ⟨rfl, ?_⟩
    rwa [Queue.deq_eq_none, ← hcount, ← Queue.deq_eq_none p]
  | some r =>
    obtain ⟨f, p'⟩ := r
    obtain ⟨hpos, -, hp'⟩ := (Queue.deq_eq_some p p' f).1 hp
    obtain ⟨q', hq⟩ := Queue.exists_deq_of_pos (q := q) (hcount ▸ hpos)
    obtain ⟨-, -, hq'⟩ := (Queue.deq_eq_some q q' _).1 hq
    rw [Queue.contents_deq hp, Queue.contents_deq hq, List.cons.injEq] at hcontents
    obtain ⟨hf, hrest⟩ := hcontents
    refine .inr ⟨f, p', q', rfl, hf ▸ hq, hring.deq hp, ?_, ?_, ?_, hrest⟩
    · rw [hp', hq']; exact hhead
    · rw [hp', hq', htail]
    · rw [hp', hq', hcount]

theorem Cache.Same.symm {k l : Cache} (h : k.Same l) : l.Same k :=
  ⟨h.1.symm, fun hv => (h.2 (h.1.trans hv)).symm⟩

/-- A valid cache is the same in both, and an invalid one answers false in both (R235). -/
theorem Cache.Same.receiving {k l : Cache} (h : k.Same l) (window now draw : Nat) :
    k.receiving window now draw = l.receiving window now draw := by
  obtain ⟨hflag, hvalid⟩ := h
  cases hk : k.validFlag with
  | true => rw [hvalid hk]
  | false => simp only [Cache.receiving, hk, ← hflag, Bool.false_eq_true, if_false]

theorem State.Same.symm {a b : State} (h : a.Same b) : b.Same a := by
  obtain ⟨hcfg, hsmp, hmode, hcount, hhub, hone, htwo, hcache, ha, hi, ho, hr, hd, hb⟩ := h
  exact ⟨hcfg.symm, hsmp.symm, hmode.symm, hcount.symm, hhub.symm, hone.symm, htwo.symm, hcache.symm, ha.symm, hi.symm, ho.symm,
    hr.symm, hd.symm, hb.symm⟩

theorem varies_samplerSimulation : SamplerSimulation Varies where
  cfg := by rintro a _ ⟨p, q, k, -, -, -, rfl⟩; rfl
  inputs := by rintro a _ ⟨p, q, k, -, -, -, rfl⟩; rfl
  emit := by rintro a _ o ⟨p, q, k, hp, hq, hk, rfl⟩; exact ⟨p, q, k, hp, hq, hk, rfl⟩
  ret := by rintro a _ r ⟨p, q, k, hp, hq, hk, rfl⟩; exact ⟨p, q, k, hp, hq, hk, rfl⟩
  count := by rintro a _ ⟨p, q, k, ⟨-, -, -, hcount, -⟩, -, -, rfl⟩; exact hcount
  enq := by
    rintro a _ f ⟨p, q, k, hp, hq, hk, rfl⟩
    rcases hp.enq f with hnone | ⟨a', p', ha, hp', hsame⟩
    · exact .inl hnone
    · exact .inr ⟨a', p', ha, hp', p', q, k, hsame, hq, hk, rfl⟩
  deq := by
    rintro a _ ⟨p, q, k, hp, hq, hk, rfl⟩
    rcases hp.deq with hnone | ⟨f, a', p', ha, hp', hsame⟩
    · exact .inl hnone
    · exact .inr ⟨f, a', p', ha, hp', p', q, k, hsame, hq, hk, rfl⟩
  reset := by
    rintro a _ ⟨p, q, k, hp, hq, hk, rfl⟩
    exact ⟨_, q, k, Queue.Same.refl_of_ring (Queue.ring_ofSlots _), hq, hk, rfl⟩
  mode := by rintro a _ ⟨p, q, k, -, -, -, rfl⟩; rfl
  setMode := by rintro a _ m ⟨p, q, k, hp, hq, hk, rfl⟩; exact ⟨p, q, k, hp, hq, hk, rfl⟩
  countSample := by rintro a _ ⟨p, q, k, hp, hq, hk, rfl⟩; exact ⟨p, q, k, hp, hq, hk, rfl⟩

theorem varies_hubSimulation : HubSimulation Varies where
  cfg := by rintro a _ ⟨p, q, k, -, -, -, rfl⟩; rfl
  inputs := by rintro a _ ⟨p, q, k, -, -, -, rfl⟩; rfl
  emit := by rintro a _ o ⟨p, q, k, hp, hq, hk, rfl⟩; exact ⟨p, q, k, hp, hq, hk, rfl⟩
  ret := by rintro a _ r ⟨p, q, k, hp, hq, hk, rfl⟩; exact ⟨p, q, k, hp, hq, hk, rfl⟩
  count := by rintro a _ ⟨p, q, k, -, ⟨-, -, -, hcount, -⟩, -, rfl⟩; exact hcount
  enq := by
    rintro a _ f ⟨p, q, k, hp, hq, hk, rfl⟩
    rcases hq.enq f with hnone | ⟨a', q', ha, hq', hsame⟩
    · exact .inl hnone
    · exact .inr ⟨a', q', ha, hq', p, q', k, hp, hsame, hk, rfl⟩
  deq := by
    rintro a _ ⟨p, q, k, hp, hq, hk, rfl⟩
    rcases hq.deq with hnone | ⟨f, a', q', ha, hq', hsame⟩
    · exact .inl hnone
    · exact .inr ⟨f, a', q', ha, hq', p, q', k, hp, hsame, hk, rfl⟩
  reset := by
    rintro a _ ⟨p, q, k, hp, hq, hk, rfl⟩
    exact ⟨p, _, _, hp, Queue.Same.refl_of_ring (Queue.ring_ofSlots _), ⟨rfl, fun _ => rfl⟩, rfl⟩
  btn := by rintro a _ x ⟨p, q, k, -, -, -, rfl⟩; cases x <;> rfl
  setBtn := by
    rintro a _ x y ⟨p, q, k, hp, hq, hk, rfl⟩
    cases x <;> exact ⟨p, q, k, hp, hq, hk, rfl⟩
  setCache := by rintro a _ l ⟨p, q, k, hp, hq, hk, rfl⟩; exact ⟨p, q, l, hp, hq, ⟨rfl, fun _ => rfl⟩, rfl⟩
  invalidate := by rintro a _ ⟨p, q, k, hp, hq, hk, rfl⟩; exact ⟨p, q, { k with validFlag := false }, hp, hq, ⟨rfl, nofun⟩, rfl⟩
  query := by
    rintro a _ ⟨p, q, k, hp, hq, hk, rfl⟩
    refine ⟨p, q, k, hp, hq, hk, ?_⟩
    rw [queryReceiving, queryReceiving, hk.receiving]
    rfl

/-- Related states stay related through every instruction. -/
theorem exec_varies {i : Instr} {a b t : State} (h : Varies a.begin b.begin) (hx : exec i a = .next t) :
    ∃ u, exec i b = .next u ∧ Varies t u := by
  cases hown : owner i with
  | none =>
    obtain ⟨r, hr⟩ := exec_codec hown a.cfg
    obtain rfl := Host.Outcome.next.inj ((hr a rfl).symm.trans hx)
    exact ⟨_, hr b (varies_samplerSimulation.cfg h).symm, varies_samplerSimulation.ret r h⟩
  | some n =>
    obtain ⟨t', u, ht, hu, hvaries⟩ : ∃ t u, exec i a = .next t ∧ exec i b = .next u ∧ Varies t u := by
      cases n
      case sampler => exact varies_samplerSimulation.exec hown h
      case hub => exact varies_hubSimulation.exec hown h
    obtain rfl := Host.Outcome.next.inj (ht.symm.trans hx)
    exact ⟨u, hu, hvaries⟩

/-- Related states take related steps: they fetch the same, as they agree on configuration, bench and moves. -/
theorem step_same {a b t : State} (h : a.Same b) (hstep : step a = .next t) : ∃ u, step b = .next u ∧ t.Same u := by
  obtain ⟨p, q, k, hp, hq, hk, rfl⟩ := (same_iff_varies a b).1 h
  simp only [same_iff_varies]
  obtain ⟨hwf, ⟨hb, ha, rfl, -⟩ | ⟨e, rest, i, hd, htakes, hl, hx, -⟩ | ⟨e, hb, hd, rfl, -⟩⟩ := step_cases hstep
  · exact ⟨_, step_of_waiting (s := a.vary p q k) hwf hb ha, p, q, k, hp, hq, hk, rfl⟩
  · have hload : Varies (a.load e rest).begin ((a.vary p q k).load e rest).begin := ⟨p, q, k, hp, hq, hk, rfl⟩
    obtain ⟨u, hu, hvaries⟩ := exec_varies hload hx
    refine ⟨u, Eq.trans ?_ hu, hvaries⟩
    cases htakes with
    | bench hb => exact step_of_bench (s := a.vary p q k) hwf hb hd
    | move _ hb ha => exact step_of_move (s := a.vary p q k) hwf hb ha hd (hl hb)
  · exact ⟨_, step_of_bench_malformed (s := a.vary p q k) hwf hb hd, p, q, k, hp, hq, hk, rfl⟩

end Machine

/-- Settles O60: two related runs go on and stand still together, step by related step. -/
theorem unspecifiedContentsAreUnobservable : Obligations.UnspecifiedContentsAreUnobservable := by
  intro k
  induction k with
  | zero => exact fun s₁ s₂ h => ⟨rfl, h⟩
  | succ k ih =>
    intro s₁ s₂ h
    rcases run_succ k s₁ with ⟨t₁, hstep₁, htrace₁, hfinal₁⟩ | ⟨hstuck₁, htrace₁, hfinal₁⟩
    · obtain ⟨t₂, hstep₂, hsame⟩ := step_same h hstep₁
      obtain ⟨hobserve, hfinal⟩ := ih t₁ t₂ hsame
      obtain ⟨-, -, -, -, -, -, -, -, -, -, houtputs, hresult, -, -⟩ := hsame
      simp only [observe] at hobserve
      rw [observe, observe, htrace₁, trace_succ_of_step hstep₂, hfinal₁, final_succ_of_step hstep₂, List.map_cons, List.map_cons,
        hobserve, houtputs, hresult]
      exact ⟨rfl, hfinal⟩
    · rcases run_succ k s₂ with ⟨t₂, hstep₂, -, -⟩ | ⟨-, htrace₂, hfinal₂⟩
      · obtain ⟨t₁, hstep₁, -⟩ := step_same h.symm hstep₂
        exact absurd hstep₁ (hstuck₁ t₁)
      · rw [observe, observe, htrace₁, htrace₂, hfinal₁, hfinal₂]
        exact ⟨rfl, h⟩

end Sys2Proof
end
